-- ==== Sys2Proof/Word.lean ====
section
/-! DEFINITION. The word types of GIFFER-CORE (spec/00_scope.md R5, R7). -/

namespace Sys2Proof

/-- A byte: 8 bits, bit 0 least significant (00_scope R7). -/
abbrev Byte := BitVec 8

/-- A symbol, or colour index: 0 dead, 1 live, 2 gridline, 3 reserved/unused (00_scope section 5; 93 U1 gives the
type its four values). -/
abbrev Symbol := BitVec 2

/-- An LZW code as a 12-bit value (30_encoding R94). -/
abbrev Code := BitVec 12

end Sys2Proof
end

