-- ==== Sys2Proof/Syntax.lean ====
section
/-! DEFINITION. The operations of GIFFER-CORE: one constructor per row of spec/opcode_table.json, in the table's order,
and the four kinds of words they are encoded in (spec/30_encoding.md R90). -/

namespace Sys2Proof

/-- One row of the opcode table each. The first ten are the command bytes of 30_encoding R92 and R93, the next four
the code classes of R94, the last ten the output records of R97 to R107. -/
inductive Instr where
  | cfg
  | hdr
  | rast
  | enc
  | wfrm
  | adv
  | close
  | frame
  | run
  /-- A reserved command byte: bits 7:4 are `r`, bits 3:0 are `p` (R93). -/
  | reserved (r p : BitVec 4)
  /-- The literal code of a colour index. -/
  | lit (sym : Symbol)
  /-- The clear code, 4. -/
  | clear
  /-- The end-of-information code, 5. -/
  | eoi
  /-- A dictionary code, 6 to 4095. -/
  | dict (c : Code)
  /-- The signature. -/
  | sig
  /-- The logical screen descriptor: canvas width, canvas height, colour resolution. -/
  | lsd (w h : BitVec 16) (cres : BitVec 3)
  /-- The global colour table; `gray` is the gridline level. -/
  | gct (gray : Byte)
  /-- The looping application extension. -/
  | appext
  /-- The graphic control extension, with the delay in centiseconds. -/
  | gce (pause : BitVec 16)
  /-- The image separator and descriptor. -/
  | imgdesc (w h : BitVec 16)
  /-- The minimum-code-size byte. -/
  | mincode
  /-- A data sub-block: its length byte and its data bytes. -/
  | subblock (n : Byte) (data : List Byte)
  /-- The zero-length block that ends a block series. -/
  | terminator
  /-- The trailer byte. -/
  | trailer
  deriving DecidableEq, Repr

/-- The words of an operation, by the encoding space that holds them (30_encoding R90): a command byte, an LZW code,
and the output bytes. The output bytes are of two kinds, because R109 finds the length of a sub-block from its first
byte and the length of every other record from its kind: the seven bytes of a screen descriptor can be the seven
bytes of a sub-block of length 6. -/
inductive Encoded where
  | command (b : Byte)
  | code (c : Code)
  | record (bytes : List Byte)
  | block (bytes : List Byte)
  deriving DecidableEq, Repr

/-- Why words stand for no operation. Command bytes and codes always stand for one. -/
inductive DecodeError where
  /-- The bytes are none of the fixed-length records (R99 to R107). -/
  | notARecord
  /-- The bytes are no sub-block and no terminator (R97). -/
  | notABlock
  deriving DecidableEq, Repr

/-- What the decoder answers. -/
inductive Decoded where
  | ok (i : Instr)
  | bad (e : DecodeError)
  deriving DecidableEq, Repr

end Sys2Proof
end

