-- ==== Sys2Proof/WellFormed.lean ====
section
/-! DEFINITION. Which terms of Instr are instances of their row (the table's conditions on the operands). -/

namespace Sys2Proof

/-- The operands are ones the row allows: a reserved byte is no defined command (30_encoding R93), a dictionary code
is not below 6 (R94), a sub-block has 1 to 255 data bytes and its length byte counts them (R97). -/
def Instr.wellFormed : Instr → Bool
  | .reserved r p => r != 0 || p == 0 || decide (10 ≤ p.toNat)
  | .dict c => decide (6 ≤ c.toNat)
  | .subblock n data => decide (1 ≤ n.toNat) && data.length == n.toNat
  | .cfg | .hdr | .rast | .enc | .wfrm | .adv | .close | .frame | .run => true
  | .lit _ | .clear | .eoi => true
  | .sig | .lsd _ _ _ | .gct _ | .appext | .gce _ | .imgdesc _ _ | .mincode | .terminator | .trailer => true

end Sys2Proof
end

