-- ==== Sys2Proof/Decode.lean ====
section
/-! DEFINITION. The encodings of spec/30_encoding.md: decoding, total and refusing by name, and after it the encoder.
The record layouts stand here once; the machine writes the bytes this file gives. -/

namespace Sys2Proof

/-- LE16 (00_scope R7): a 16-bit value as two bytes, low byte first. -/
def le16 (v : BitVec 16) : List Byte := [v.extractLsb' 0 8, v.extractLsb' 8 8]

/-- The 16-bit value of a low and a high byte. -/
def word16 (lo hi : Byte) : BitVec 16 := hi ++ lo

/-- SIG (30_encoding R99): the ASCII of GIF89a. -/
def sigBytes : List Byte := [0x47, 0x49, 0x46, 0x38, 0x39, 0x61]

/-- The flags byte of the screen descriptor (R100): bit 7 set, CRES in 6:4, sort flag 0, table size 001. -/
def lsdFlags (cres : BitVec 3) : Byte := 1#1 ++ cres ++ 0#1 ++ 1#3

/-- LSD (R100). -/
def lsdBytes (w h : BitVec 16) (cres : BitVec 3) : List Byte := le16 w ++ le16 h ++ [lsdFlags cres, 0x00, 0x00]

/-- GCT (R102): white, black, gray, unused-black. -/
def gctBytes (gray : Byte) : List Byte :=
  [0xFF, 0xFF, 0xFF, 0x00, 0x00, 0x00, gray, gray, gray, 0x00, 0x00, 0x00]

/-- APPEXT (R103): the Netscape looping block with loop count 0. -/
def appextBytes : List Byte :=
  [0x21, 0xFF, 0x0B, 0x4E, 0x45, 0x54, 0x53, 0x43, 0x41, 0x50, 0x45, 0x32, 0x2E, 0x30] ++ [0x03, 0x01] ++ le16 0 ++ [0x00]

/-- GCE (R104). -/
def gceBytes (pause : BitVec 16) : List Byte := [0x21, 0xF9, 0x04, 0x00] ++ le16 pause ++ [0x00, 0x00]

/-- IMGDESC (R105): position 0, 0 and the canvas's size. -/
def imgdescBytes (w h : BitVec 16) : List Byte := [0x2C] ++ le16 0 ++ le16 0 ++ le16 w ++ le16 h ++ [0x00]

/-- MINCODE (R106). -/
def mincodeBytes : List Byte := [0x02]

/-- TRAILER (R107). -/
def trailerBytes : List Byte := [0x3B]

/-- The zero-length block (R97). -/
def terminatorBytes : List Byte := [0x00]

/-- A command byte (R91 to R93): total, a byte that is no defined command is a reserved one. -/
def decodeCommand (b : Byte) : Instr :=
  if b = 0x01 then .cfg
  else if b = 0x02 then .hdr
  else if b = 0x03 then .rast
  else if b = 0x04 then .enc
  else if b = 0x05 then .wfrm
  else if b = 0x06 then .adv
  else if b = 0x07 then .close
  else if b = 0x08 then .frame
  else if b = 0x09 then .run
  else .reserved (b.extractLsb' 4 4) (b.extractLsb' 0 4)

/-- A code's class (R94): total. -/
def decodeCode (c : Code) : Instr :=
  if c.toNat < 4 then .lit (c.extractLsb' 0 2)
  else if c = 4 then .clear
  else if c = 5 then .eoi
  else .dict c

/-- A fixed-length record from all its bytes (R99 to R107), told apart by length and constant bytes (R109). -/
def decodeRecord (bytes : List Byte) : Decoded :=
  if bytes = sigBytes then .ok .sig
  else if bytes = appextBytes then .ok .appext
  else if bytes = mincodeBytes then .ok .mincode
  else if bytes = trailerBytes then .ok .trailer
  else
    match bytes with
    | [w0, w1, h0, h1, flags, _, _] =>
      let i := (word16 w0 w1, word16 h0 h1, flags.extractLsb' 4 3)
      if bytes = lsdBytes i.1 i.2.1 i.2.2 then .ok (.lsd i.1 i.2.1 i.2.2) else .bad .notARecord
    | [_, _, _, _, p0, p1, _, _] =>
      if bytes = gceBytes (word16 p0 p1) then .ok (.gce (word16 p0 p1)) else .bad .notARecord
    | [_, _, _, _, _, w0, w1, h0, h1, _] =>
      if bytes = imgdescBytes (word16 w0 w1) (word16 h0 h1) then .ok (.imgdesc (word16 w0 w1) (word16 h0 h1))
      else .bad .notARecord
    | [_, _, _, _, _, _, gray, _, _, _, _, _] => if bytes = gctBytes gray then .ok (.gct gray) else .bad .notARecord
    | _ => .bad .notARecord

/-- One block of a block series from all its bytes (R97): the first byte is the length. -/
def decodeBlock : List Byte → Decoded
  | [] => .bad .notABlock
  | n :: data =>
    if n = 0 then (if data = [] then .ok .terminator else .bad .notABlock)
    else if data.length = n.toNat then .ok (.subblock n data) else .bad .notABlock

/-- Decoding, total on any words. -/
def decode : Encoded → Decoded
  | .command b => .ok (decodeCommand b)
  | .code c => .ok (decodeCode c)
  | .record bytes => decodeRecord bytes
  | .block bytes => decodeBlock bytes

/-- The command byte of a command (R92, R93); the other rows have none, and 0 stands there. -/
def commandByte : Instr → Byte
  | .cfg => 0x01
  | .hdr => 0x02
  | .rast => 0x03
  | .enc => 0x04
  | .wfrm => 0x05
  | .adv => 0x06
  | .close => 0x07
  | .frame => 0x08
  | .run => 0x09
  | .reserved r p => r ++ p
  | .lit _ | .clear | .eoi | .dict _ => 0x00
  | .sig | .lsd _ _ _ | .gct _ | .appext | .gce _ | .imgdesc _ _ | .mincode | .subblock _ _ | .terminator | .trailer => 0x00

/-- The code of a literal (R94): the colour index itself. -/
def litCode (sym : Symbol) : Code := sym.setWidth 12

/-- The words of an operation. -/
def encode : Instr → Encoded
  | .cfg => .command (commandByte .cfg)
  | .hdr => .command (commandByte .hdr)
  | .rast => .command (commandByte .rast)
  | .enc => .command (commandByte .enc)
  | .wfrm => .command (commandByte .wfrm)
  | .adv => .command (commandByte .adv)
  | .close => .command (commandByte .close)
  | .frame => .command (commandByte .frame)
  | .run => .command (commandByte .run)
  | .reserved r p => .command (commandByte (.reserved r p))
  | .lit sym => .code (litCode sym)
  | .clear => .code 4
  | .eoi => .code 5
  | .dict c => .code c
  | .sig => .record sigBytes
  | .lsd w h cres => .record (lsdBytes w h cres)
  | .gct gray => .record (gctBytes gray)
  | .appext => .record appextBytes
  | .gce pause => .record (gceBytes pause)
  | .imgdesc w h => .record (imgdescBytes w h)
  | .mincode => .record mincodeBytes
  | .subblock n data => .block (n :: data)
  | .terminator => .block terminatorBytes
  | .trailer => .record trailerBytes

/-- The `k` bytes of a number, most significant first: how the table's `match` of a record numbers its bits (R111:
bytes in stream order, bit 7 of each first). -/
def streamBytes : Nat → Nat → List Byte
  | 0, _ => []
  | k + 1, v => BitVec.ofNat 8 (v / 256 ^ k) :: streamBytes k v

/-- The words that `nbits` bits of value `w`, numbered as the opcode table numbers them, stand for. One byte is a
command byte; a 12-bit code stands in two bytes; more bytes are a record in stream order, of which the table may give
the screen descriptor its low three bytes only. The one-byte records share their numbers with command bytes. -/
def layoutWord (nbits w : Nat) : Option Encoded :=
  if nbits = 8 then (if w < 256 then some (.command (BitVec.ofNat 8 w)) else none)
  else if nbits = 12 ∨ nbits = 16 then (if w < 4096 then some (.code (BitVec.ofNat 12 w)) else none)
  else if nbits = 24 then some (.record (streamBytes 7 w))
  else some (.record (streamBytes (nbits / 8) w))

/-- The instruction the decoder reads from a word of the opcode table. -/
def decodeTableWord (nbits w : Nat) : Option Instr :=
  match layoutWord nbits w with
  | none => none
  | some e =>
    match decode e with
    | .ok i => some i
    | .bad _ => none

end Sys2Proof
end

