-- ==== Sys2Proof/Config.lean ====
section
/-! DEFINITION. What an implementation of GIFFER-CORE fixes (GRAY, CRES) and the free values: constants without a
value that anything could evaluate, so a claim holds whatever they are. -/

namespace Sys2Proof

/-- The sink's answer to a request: accepted, refused, or never answered (43_sequencer R237, 70_reset R294). -/
inductive SinkAnswer where
  | ok
  | error
  | never
  deriving DecidableEq, Repr, Inhabited

/-- GRAY, the level of the gridline colour (00_scope R6, 93 U9): an open parameter. -/
opaque Config.gray : Byte

/-- CRES, the colour-resolution field of the screen descriptor (00_scope R6, 93 U9): an open parameter. -/
opaque Config.cres : BitVec 3

/-- The host's translation of a frame index (93 U15), `none` where it never answers (70 R294). -/
opaque Config.xlate (frame : BitVec 32) : Option (BitVec 32 × BitVec 32)

/-- The collaborator's answer for a cell after `steps` steps (40_sampler R142, 93 U5), `none` where it never answers. -/
opaque Config.cell (steps : Nat) (col row : Int) : Option Bool

/-- Whether the collaborator ever answers the advance request made after `steps` steps (70 R294). -/
opaque Config.advanceAnswered (steps : Nat) : Bool

/-- The sink's answer to the open request that is the core's `k`-th request (93 U14). -/
opaque Config.openAnswer (k : Nat) : SinkAnswer

/-- The sink's answer to the byte that is the core's `k`-th request (93 U14). -/
opaque Config.putAnswer (k : Nat) : SinkAnswer

/-- The symbol in a RASTER cell that nothing has written (10_state R34: unspecified). -/
opaque Config.rasterUnwritten (i : Nat) : Symbol

/-- Floor quotient by 0: 00_scope R8 defines it for a divisor of at least 1 only. -/
opaque Config.fdivByZero (a : Int) : Int

/-- Floor remainder by 0: 00_scope R8 defines it for a divisor of at least 1 only. -/
opaque Config.fmodByZero (a : Int) : Int

end Sys2Proof
end

