-- ==== Sys2Proof/Machine/State.lean ====
section
/-! DEFINITION. The architectural state of GIFFER-CORE (spec/10_state.md R20), the surroundings it shakes hands with
(43_sequencer R237), the reasons a step can stop, and the state after reset (R40). -/

namespace Sys2Proof.Machine

/-- STATE (10_state R23): where the core stands in the order of the output file. Value 7 is never taken (93 U8). -/
inductive SeqState where
  | idle
  | ready
  /-- OPEN: the header is written and no frame is in progress. -/
  | isOpen
  | rastered
  | encoded
  | closed
  | fault
  deriving DecidableEq, Repr

/-- CAUSE (60_exceptions R261). Values 8 to 15 are never taken (93 U8). -/
inductive Cause where
  | none
  | dim
  | ioOpen
  | ioWrite
  | contract
  | badParam
  | badCmd
  | seq
  deriving DecidableEq, Repr

/-- The ports on which the core sends a request and waits (43_sequencer R237). -/
inductive Port where
  | translation
  | cell
  | advance
  | openPort
  | output
  deriving DecidableEq, Repr

/-- One thing seen at the ports (43_sequencer R237): a request of the core, with the sink's answer where the sink
chooses it; the release pulse; or the assertion of reset. -/
inductive PortCall where
  | xlate (frame : BitVec 32)
  | cell (col row : Int)
  | advance (steps : Nat)
  | openSink (answer : SinkAnswer)
  | put (b : Byte) (answer : SinkAnswer)
  | release
  | rst
  deriving DecidableEq, Repr

/-- The six values on the configuration port (43_sequencer R232, R237). -/
structure CfgPort where
  frames : BitVec 32
  pause  : BitVec 16
  cell   : BitVec 16
  grid   : BitVec 16
  cols   : BitVec 16
  rows   : BitVec 16
  deriving DecidableEq, Repr

/-- How the sink answers the open request (93 U14). -/
inductive OpenPlan where
  /-- The free value `Config.openAnswer`. -/
  | free
  | answers (a : SinkAnswer)
  deriving DecidableEq, Repr

/-- How the sink answers the bytes of a run (93 U14). The first byte it does not accept ends the run, so the number
it accepts and its answer after them are all there is to say. -/
inductive SinkPlan where
  /-- The free value `Config.putAnswer`. -/
  | free
  /-- The first `count` bytes are accepted, every later one is answered with `after`. -/
  | accepts (count : Nat) (after : SinkAnswer)
  deriving DecidableEq, Repr

/-- What the host does next at the command and reset ports (43_sequencer R230, R237; 70_reset R291). -/
inductive HostEvent where
  /-- It presents a command byte, with these values on the configuration port when the byte is accepted. -/
  | command (b : Byte) (pins : CfgPort)
  /-- It asserts reset and supplies a fresh sink (70 R292), which will answer by these plans. -/
  | reset (openPlan : OpenPlan) (sinkPlan : SinkPlan)
  deriving DecidableEq, Repr

/-- The surroundings of the core: not state of the core (10_state R38) but the parameters of its step, held as data.
An answer that no list gives is the free value of Config for it. -/
structure Env where
  script   : List HostEvent
  pins     : CfgPort
  xlates   : List (BitVec 32 × Option (BitVec 32 × BitVec 32))
  cells    : List ((Nat × Int × Int) × Option Bool)
  advances : List (Nat × Bool)
  openPlan : OpenPlan
  sinkPlan : SinkPlan
  /-- The collaborator's state: how many steps it has been asked to make (40_sampler R142, 93 U6). -/
  steps    : Nat
  /-- Everything seen at the ports, newest first (10_state R42, 20_memory R71). -/
  trace    : List PortCall
  deriving DecidableEq, Repr

/-- CT as a memory (20_memory R60, R62): pairs of an address `4 * p + s` and the code stored there. -/
abbrev Memory := List (Nat × Code)

/-- The number of CT's addresses (10_state R35). -/
def Memory.size : Nat := 16384

/-- Addresses strictly rise from `lo` on and stay inside the space. -/
def Memory.risesFrom : Nat → Memory → Bool
  | _, [] => true
  | lo, (a, _) :: m => decide (lo ≤ a) && decide (a < Memory.size) && Memory.risesFrom (a + 1) m

/-- The canonical form: addresses strictly rising and inside the space. An unlisted address is absent, so no entry
equals what an unlisted address reads as. -/
def Memory.wf (m : Memory) : Bool := Memory.risesFrom 0 m

/-- The LZW registers (10_state R30 to R33), the code table (R35) and ENC's local byte sequence `payload` (41 R160). -/
structure Lzw where
  curv    : Bool
  cur     : Code
  next    : BitVec 13
  cw      : BitVec 4
  acc     : BitVec 19
  nb      : BitVec 5
  ct      : Memory
  payload : List Byte
  deriving DecidableEq, Repr

/-- The parameters of an implementation (00_scope R6): no operation writes them. -/
structure Params where
  gray : Byte
  cres : BitVec 3
  deriving DecidableEq, Repr

/-- The machine: the state of 10_state R20, and after it the model's own fields (R38 and notes/assumptions). -/
structure State where
  frames  : BitVec 32
  pause   : BitVec 16
  cell    : BitVec 16
  grid    : BitVec 16
  cols    : BitVec 16
  rows    : BitVec 16
  p       : BitVec 17
  w       : BitVec 16
  h       : BitVec 16
  state   : SeqState
  fidx    : BitVec 32
  pix     : BitVec 32
  tx      : BitVec 32
  ty      : BitVec 32
  busy    : Bool
  done    : Bool
  fault   : Bool
  cause   : Cause
  info    : BitVec 64
  outcnt  : BitVec 64
  opened  : Bool
  lzw     : Lzw
  raster  : List Symbol
  lzwb    : List Byte
  out     : List Byte
  params  : Params
  env     : Env
  /-- The port whose request is never answered, when the core waits for ever (70_reset R294). -/
  waiting : Option Port
  /-- One code or record selected to run by itself (30_encoding R90: nothing selects one but the sequencer). -/
  slot    : Option Encoded
  deriving DecidableEq, Repr

/-- Why the machine stops without a next state. -/
inductive Fault where
  /-- Raised by `step` in a state with BUSY = 1: a request was never answered, and such a core has no further step
  (70_reset R294). Safe: the hardware does nothing either. -/
  | waitingForAnswer (port : Option Port)
  deriving DecidableEq, Repr

/-- Why an operation has no effect to give. -/
inductive Refusal where
  /-- Raised by `exec` for an instruction with no meaning yet. Safe: no claim can use it. -/
  | notModelled (mnemonic : String)
  /-- Raised by the meaning of EOI: the core never emits code 5 (41_lzw R169). Safe: nothing follows from it. -/
  | eoiNeverEmitted
  /-- Raised by `step` when the micro-operation slot holds words that are no operation. Safe: no command fills the
  slot. -/
  | undecodable (e : DecodeError)
  deriving DecidableEq, Repr

/-- The LZW unit at reset (10_state R40 leaves it unspecified): what LZW.INIT gives at the start of every ENC. -/
def Lzw.reset : Lzw :=
  { curv := false, cur := 0, next := 6, cw := 3, acc := 0, nb := 0, ct := [], payload := [] }

/-- The surroundings before anything is known of them: the host presents nothing, and every answer is a free value. -/
def Env.reset : Env :=
  { script := [], pins := { frames := 0, pause := 0, cell := 0, grid := 0, cols := 0, rows := 0 },
    xlates := [], cells := [], advances := [], openPlan := .free, sinkPlan := .free, steps := 0, trace := [] }

/-- The machine right after reset (10_state R40, 70_reset R290). -/
def State.reset : State :=
  { frames := 0, pause := 0, cell := 0, grid := 0, cols := 0, rows := 0, p := 0, w := 0, h := 0,
    state := .idle, fidx := 0, pix := 0, tx := 0, ty := 0,
    busy := false, done := false, fault := false, cause := .none, info := 0, outcnt := 0, opened := false,
    lzw := Lzw.reset, raster := [], lzwb := [], out := [],
    params := { gray := Config.gray, cres := Config.cres }, env := Env.reset, waiting := none, slot := none }

end Sys2Proof.Machine
end

