-- ==== Sys2Proof/Machine/Ops.lean ====
section
/-! DEFINITION. The named operations: code-table memory, the end of an operation, fault entry (spec/60_exceptions.md
R269), and the environment calls (43_sequencer R239), each one complete port handshake. -/

namespace Sys2Proof.Machine

/-- How a stretch of pseudocode ends: it goes on, or the command is over (a `raise`, or a request never answered). -/
inductive Flow where
  | go (s : State)
  | halt (s : State)
  deriving DecidableEq, Repr

/-- The next line of the pseudocode runs only if the lines before it went on (00_scope R9). -/
def Flow.andThen : Flow → (State → Flow) → Flow
  | .go s, k => k s
  | .halt s, _ => .halt s

/-- The state a stretch of pseudocode leaves, however it ends. -/
def Flow.state : Flow → State
  | .go s => s
  | .halt s => s

/-! ### The code table as a memory (20_memory R60, R62) -/

/-- The address of the pair (p, s): p[11:0], s[1:0] (10_state R35). -/
def ctAddress (p : Code) (sym : Nat) : Nat := 4 * p.toNat + sym

/-- A lookup: the code at an address, or absent. -/
def Memory.read (m : Memory) (a : Nat) : Option Code :=
  match m with
  | [] => none
  | (b, c) :: rest => if a = b then some c else Memory.read rest a

/-- An insert, keeping the canonical form; an entry at the address is replaced. -/
def Memory.write (m : Memory) (a : Nat) (c : Code) : Memory :=
  match m with
  | [] => [(a, c)]
  | (b, d) :: rest =>
    if a < b then (a, c) :: (b, d) :: rest
    else if a = b then (a, c) :: rest
    else (b, d) :: Memory.write rest a c

/-! ### Fault entry -/

/-- A request or a pulse is seen at a port. -/
def State.log (s : State) (c : PortCall) : State := { s with env := { s.env with trace := c :: s.env.trace } }

/-- Release() (42_gif_writer R205): a pulse on the release output, only if the sink is held. -/
def State.release (s : State) : State :=
  if s.opened then { s with opened := false, env := { s.env with trace := .release :: s.env.trace } } else s

/-- Fault entry (60_exceptions R269): the fault record, the release, and the terminal STATE. Nothing else changes. -/
def State.raise (s : State) (cause : Cause) (info : BitVec 64) : State :=
  { ({ s with cause := cause, info := info } : State).release with state := .fault, fault := true, busy := false }

/-- The core holds a request that is never answered (70_reset R294): BUSY stays 1 and nothing more happens. -/
def State.wait (s : State) (port : Port) : State := { s with busy := true, waiting := some port }

/-! ### The answers of the surroundings (43_sequencer R237) -/

/-- The host's translation of a frame (93 U15). -/
def Env.xlateAnswer (e : Env) (frame : BitVec 32) : Option (BitVec 32 × BitVec 32) :=
  (e.xlates.lookup frame).getD (Config.xlate frame)

/-- The collaborator's answer in its current step (40_sampler R142). -/
def Env.cellAnswer (e : Env) (col row : Int) : Option Bool :=
  (e.cells.lookup (e.steps, col, row)).getD (Config.cell e.steps col row)

/-- Whether the collaborator answers the advance request made in its current step. -/
def Env.advanceAnswer (e : Env) : Bool := (e.advances.lookup e.steps).getD (Config.advanceAnswered e.steps)

/-- The sink's answer to the open request. -/
def Env.openAnswer (e : Env) : SinkAnswer :=
  match e.openPlan with
  | .free => Config.openAnswer e.trace.length
  | .answers a => a

/-- The sink's answer to a byte when it holds `held` bytes. -/
def Env.putAnswer (e : Env) (held : Nat) : SinkAnswer :=
  match e.sinkPlan with
  | .free => Config.putAnswer e.trace.length
  | .accepts count after => if held < count then .ok else after

/-! ### The environment calls -/

/-- Open() (42_gif_writer R201). -/
def openSink (s : State) : Flow :=
  let s' := s.log (.openSink s.env.openAnswer)
  match s.env.openAnswer with
  | .ok => .go { s' with opened := true }
  | .error => .halt (s'.raise .ioOpen 0)
  | .never => .halt (s'.wait .openPort)

/-- Put(b) (42_gif_writer R200): the byte joins OUT only if the sink accepts it. -/
def putByte (b : Byte) (s : State) : Flow :=
  let answer := s.env.putAnswer s.out.length
  let s' := s.log (.put b answer)
  match answer with
  | .ok => .go { s' with out := s'.out ++ [b], outcnt := s'.outcnt + 1 }
  | .error => .halt (s'.raise .ioWrite s'.outcnt)
  | .never => .halt (s'.wait .output)

/-- Put of a byte sequence: each byte in order, stopping at the first that faults (42_gif_writer R200). -/
def putBytes : List Byte → State → Flow
  | [], s => .go s
  | b :: bs, s => (putByte b s).andThen (putBytes bs)

/-- Xlate(f) (40_sampler R140): the answer is latched into TX and TY. -/
def xlateFrame (s : State) : Flow :=
  let s' := s.log (.xlate s.fidx)
  match s.env.xlateAnswer s.fidx with
  | some (tx, ty) => .go { s' with tx := tx, ty := ty }
  | none => .halt (s'.wait .translation)

/-- Cell(col, row) (40_sampler R142): the answer, where there is one, and the state after the request. -/
def queryCell (col row : Int) (s : State) : Option Bool × State :=
  (s.env.cellAnswer col row, s.log (.cell col row))

/-- Advance(n) (43_sequencer R233): the collaborator makes `n` steps. -/
def advanceBy (n : Nat) (s : State) : Flow :=
  let s' := s.log (.advance n)
  if s.env.advanceAnswer then .go { s' with env := { s'.env with steps := s'.env.steps + n } }
  else .halt (s'.wait .advance)

end Sys2Proof.Machine
end

