-- ==== Sys2Proof/Machine/Operands.lean ====
section
/-! DEFINITION. The operand forms: floor division (spec/00_scope.md R8), the canvas dimensions (10_state R22), the
fields of INFO (60_exceptions R261), and the cells of RASTER (20_memory R61). -/

namespace Sys2Proof.Machine

/-- fdiv (00_scope R8): the quotient rounds toward minus infinity. -/
def fdiv (a : Int) (b : Nat) : Int := if b = 0 then Config.fdivByZero a else a.fdiv b

/-- fmod (00_scope R8): the remainder is never negative. -/
def fmod (a : Int) (b : Nat) : Int := if b = 0 then Config.fmodByZero a else a.fmod b

/-- A canvas dimension, exact (10_state R22): period times cells plus one more gridline. -/
def canvasDim (p : BitVec 17) (cells grid : BitVec 16) : Nat := p.toNat * cells.toNat + grid.toNat

/-- A dimension the canvas may have (00_scope R4: DIMMIN, DIMMAX). -/
def dimOk (d : Nat) : Bool := decide (1 ≤ d) && decide (d ≤ 65535)

/-- INFO of DIM (60_exceptions R261): bit 63 says width (0) or height (1), the bits below hold the exact value. -/
def dimInfo (isHeight : Bool) (d : Nat) : BitVec 64 := BitVec.ofNat 64 ((if isHeight then 2 ^ 63 else 0) + d)

/-- The code of a STATE value (10_state R23). -/
def SeqState.code : SeqState → BitVec 3
  | .idle => 0
  | .ready => 1
  | .isOpen => 2
  | .rastered => 3
  | .encoded => 4
  | .closed => 5
  | .fault => 6

/-- The code of a CAUSE value (60_exceptions R261). -/
def Cause.code : Cause → BitVec 4
  | .none => 0
  | .dim => 1
  | .ioOpen => 2
  | .ioWrite => 3
  | .contract => 4
  | .badParam => 5
  | .badCmd => 6
  | .seq => 7

/-- INFO of BADCMD (60_exceptions R261): the byte in bits 7:0. -/
def badCmdInfo (b : Byte) : BitVec 64 := b.setWidth 64

/-- INFO of SEQ (60_exceptions R261): STATE in bits 10:8, the byte in bits 7:0. -/
def seqInfo (st : SeqState) (b : Byte) : BitVec 64 := (st.code ++ b).setWidth 64

/-- The first `n` cells of RASTER from index `i` on, where `cells` is what has been written there. -/
def rasterCells : Nat → Nat → List Symbol → List Symbol
  | 0, _, _ => []
  | n + 1, i, [] => Config.rasterUnwritten i :: rasterCells n (i + 1) []
  | n + 1, i, a :: cells => a :: rasterCells n (i + 1) cells

/-- RASTER after its cells 0, 1, … have been written with `done` (the newest first): the others are as they were. -/
def rasterStore (done old : List Symbol) : List Symbol := done.reverse ++ old.drop done.length

/-- The number of pixels of a frame. -/
def State.pixels (s : State) : Nat := s.w.toNat * s.h.toNat

end Sys2Proof.Machine
end

