-- ==== Sys2Proof/Machine/Flags.lean ====
section
/-! DEFINITION. The status flags and ports (spec/10_state.md R27, 43_sequencer R237), command acceptance (R230) and
the legality table (R231). -/

namespace Sys2Proof.Machine

/-- CLOSED and FAULT are the two ends of a run (43_sequencer R238). -/
def SeqState.terminal : SeqState → Bool
  | .closed | .fault => true
  | .idle | .ready | .isOpen | .rastered | .encoded => false

/-- The `cmd_ready` output (43_sequencer R237): a byte presented now is accepted. -/
def State.cmdReady (s : State) : Bool := !s.busy && !s.state.terminal

/-- The core can do nothing more: it is in CLOSED or FAULT (60_exceptions R270) or waits for ever (70_reset R294). -/
def State.stopped (s : State) : Bool := s.waiting.isSome || s.state.terminal

/-- The legality table (43_sequencer R231): the one STATE a command is legal in. The other rows are no commands. -/
def legalState : Instr → Option SeqState
  | .cfg | .run => some .idle
  | .hdr => some .ready
  | .rast | .adv | .close | .frame => some .isOpen
  | .enc => some .rastered
  | .wfrm => some .encoded
  | .reserved _ _ => none
  | .lit _ | .clear | .eoi | .dict _ => none
  | .sig | .lsd _ _ _ | .gct _ | .appext | .gce _ | .imgdesc _ _ | .mincode | .subblock _ _ | .terminator | .trailer => none

/-- The end of a command (43_sequencer R230): BUSY falls after its last line; a `raise` has cleared it already, and
under a request never answered it stays 1. -/
def Flow.finish : Flow → Host.Outcome State Fault Refusal
  | .go s => .next { s with busy := false }
  | .halt s => .next s

/-- Acceptance of a command (43_sequencer R230): nothing happens while the core is not ready; then a reserved byte
raises BADCMD, a command out of order raises SEQ, and otherwise the command runs with BUSY set. -/
def acceptCommand (i : Instr) (body : State → Flow) (s : State) : Host.Outcome State Fault Refusal :=
  if s.cmdReady then
    match legalState i with
    | none => .next (s.raise .badCmd (badCmdInfo (commandByte i)))
    | some legal =>
      if s.state = legal then (body { s with busy := true }).finish
      else .next (s.raise .seq (seqInfo s.state (commandByte i)))
  else .next s

/-- A micro-operation run by itself: nothing happens once the core can do nothing more. -/
def runMicro (body : State → Flow) (s : State) : Host.Outcome State Fault Refusal :=
  if s.stopped then .next s else .next (body s).state

/-- The status outputs (43_sequencer R237, row "status"). -/
structure Status where
  state  : BitVec 3
  busy   : Bool
  done   : Bool
  fault  : Bool
  cause  : BitVec 4
  info   : BitVec 64
  fidx   : BitVec 32
  outcnt : BitVec 64
  deriving DecidableEq, Repr

/-- What the host reads at the status port. -/
def statusPort (s : State) : Status :=
  { state := s.state.code, busy := s.busy, done := s.done, fault := s.fault, cause := s.cause.code,
    info := s.info, fidx := s.fidx, outcnt := s.outcnt }

/-- A register of R237's status row by its number (10_state, before section 1), as a number. The eight status outputs are
all a host can observe (60_exceptions R275), OUTCNT and FIDX the only counters among them (R273), so every other number
selects nothing (DEDUCED, notes/assumptions/29.md). BUSY, DONE and FAULT have no number. -/
def Status.register (o : Status) (n : Nat) : Option Nat :=
  match n with
  | 9 => some o.state.toNat
  | 10 => some o.fidx.toNat
  | 14 => some o.cause.toNat
  | 15 => some o.info.toNat
  | 16 => some o.outcnt.toNat
  | _ => none

/-- The status read port: it selects among the status outputs and reaches nothing else. -/
def readRegister (s : State) (n : Nat) : Option Nat := (statusPort s).register n

end Sys2Proof.Machine
end

