-- ==== Sys2Proof/Machine/Encoder.lean ====
section
/-! DEFINITION. The LzwEncoder: the command ENC and its micro-operations (spec/41_lzw_encoder.md). Arithmetic is exact
and narrowed to the register's width at the end; inside ENC nothing is ever lost by that (10_state R33, R39). -/

namespace Sys2Proof.Machine

/-- LZW.INIT (R161). CUR is left as it is: it means nothing while CURV = 0. -/
def lzwInit (l : Lzw) : Lzw :=
  { l with ct := [], next := 6, cw := 3, curv := false, acc := 0, nb := 0, payload := [] }

/-- The bytes the loop of LZW.EMIT appends (R167), one for each of the `k` times it runs. -/
def drainBytes : Nat → Nat → List Byte
  | 0, _ => []
  | k + 1, acc => BitVec.ofNat 8 acc :: drainBytes k (acc / 256)

/-- LZW.EMIT(c) (R167): the code joins the accumulator above the bits already there, and every complete byte leaves
it. The loop `while NB >= 8` runs NB / 8 times. -/
def lzwEmit (c : Code) (l : Lzw) : Lzw :=
  let acc := l.acc.toNat + c.toNat * 2 ^ l.nb.toNat
  let nb := l.nb.toNat + l.cw.toNat
  { l with payload := l.payload ++ drainBytes (nb / 8) acc,
           acc := BitVec.ofNat 19 (acc / 256 ^ (nb / 8)), nb := BitVec.ofNat 5 (nb % 8) }

/-- LZW.CLEAR (R165): the clear code goes out at the current width, and the table is as new. -/
def lzwClear (l : Lzw) : Lzw :=
  { lzwEmit 4 l with ct := [], next := 6, cw := 3 }

/-- The extended string gets the next code (R163), and the width grows when that code is the first that does not fit
(R164). -/
def lzwInsert (sym : Nat) (l : Lzw) : Lzw :=
  { l with ct := Memory.write l.ct (ctAddress l.cur sym) (l.next.setWidth 12),
           cw := if l.next.toNat = 2 ^ l.cw.toNat then l.cw + 1 else l.cw,
           next := l.next + 1 }

/-- LZW.MISS(s) (R163): emit at the old width, then clear or insert, then go on with the symbol alone. -/
def lzwMiss (sym : Nat) (l : Lzw) : Lzw :=
  let l1 := lzwEmit l.cur l
  let l2 := if l.next = 4096 then lzwClear l1 else lzwInsert sym l1
  { l2 with cur := BitVec.ofNat 12 sym }

/-- LZW.SYM(s) (R162); `none` is the CONTRACT violation of R172, a symbol above 3. -/
def lzwSym (sym : Nat) (l : Lzw) : Option Lzw :=
  if 3 < sym then none
  else if l.curv = false then some { l with cur := BitVec.ofNat 12 sym, curv := true }
  else
    match Memory.read l.ct (ctAddress l.cur sym) with
    | some c => some { l with cur := c }
    | none => some (lzwMiss sym l)

/-- LZW.FIN (R166): the code of the final pending match; `none` is the CONTRACT violation of R172, no match at all. -/
def lzwFin (l : Lzw) : Option Lzw := if l.curv = false then none else some (lzwEmit l.cur l)

/-- PACK.FLUSH (R168): the bits left over go out as one more byte, zeros above them. -/
def packFlush (l : Lzw) : Lzw :=
  if l.nb = 0 then l else { l with payload := l.payload ++ [l.acc.setWidth 8], acc := 0, nb := 0 }

/-- The sub-blocks of CHUNK (R171); `fuel` bounds their number. -/
def chunkBlocks : Nat → List Byte → List Byte
  | 0, _ => []
  | fuel + 1, bytes =>
    if bytes = [] then []
    else BitVec.ofNat 8 (bytes.take 255).length :: bytes.take 255 ++ chunkBlocks fuel (bytes.drop 255)

/-- CHUNK (R171): sub-blocks of at most 255 bytes and the zero-length block. There are never more blocks than bytes. -/
def chunk (payload : List Byte) : List Byte := chunkBlocks payload.length payload ++ terminatorBytes

/-- The symbol loop of ENC (R160), counted by PIX. -/
def encLoop : List Symbol → State → Flow
  | [], s => .go s
  | sym :: rest, s =>
    match lzwSym sym.toNat s.lzw with
    | none => .halt (s.raise .contract (s.pix.setWidth 64))
    | some l => encLoop rest { s with lzw := l, pix := s.pix + 1 }

/-- LZW.FIN, PACK.FLUSH, CHUNK and the end of ENC (R160). -/
def encFinish (s : State) : Flow :=
  match lzwFin s.lzw with
  | none => .halt (s.raise .contract (s.pix.setWidth 64))
  | some l => .go { s with lzw := packFlush l, lzwb := chunk (packFlush l).payload, state := .encoded }

/-- The lines of ENC (R160). -/
def encBody (s : State) : Flow :=
  (encLoop (rasterCells s.pixels 0 s.raster) { s with lzw := lzwInit s.lzw, pix := 0 }).andThen encFinish

/-- ENC (R160). -/
def execEnc (s : State) : Host.Outcome State Fault Refusal := acceptCommand .enc encBody s

end Sys2Proof.Machine
end

