-- ==== Sys2Proof/Machine/Codes.lean ====
section
/-! DEFINITION. The code classes of the LZW code space (spec/30_encoding.md R94), each as the micro-operation that sends
the code: LZW.EMIT (41_lzw R167), and LZW.CLEAR for the clear code (R165). -/

namespace Sys2Proof.Machine

/-- A micro-operation of the LZW unit that sends a code. LZW.EMIT's lines (41_lzw R167) are followed for every code,
also one that is not below 2^CW, which no ENC ever sends (DEDUCED, notes/assumptions/14.md). -/
def runCode (op : Lzw → Lzw) (s : State) : Host.Outcome State Fault Refusal :=
  if s.stopped then .next s else .next { s with lzw := op s.lzw }

/-- LIT: LZW.EMIT of the literal's code. -/
def execLit (sym : Symbol) (s : State) : Host.Outcome State Fault Refusal :=
  runCode (lzwEmit (litCode sym)) s

/-- CLEAR: LZW.CLEAR. -/
def execClear (s : State) : Host.Outcome State Fault Refusal := runCode lzwClear s

/-- DICT: LZW.EMIT of a dictionary code. -/
def execDict (c : Code) (s : State) : Host.Outcome State Fault Refusal := runCode (lzwEmit c) s

/-- EOI: code 5 is reserved and the core never emits it (41_lzw R169); there is no effect to give. -/
def execEoi (_s : State) : Host.Outcome State Fault Refusal := .refused .eoiNeverEmitted

end Sys2Proof.Machine
end

