-- ==== Sys2Proof/Machine/Records.lean ====
section
/-! DEFINITION. The output records (spec/30_encoding.md R97 to R107), each as the micro-operation that writes it: Put of
its bytes in stream order (42_gif_writer R200). -/

namespace Sys2Proof.Machine

/-- Put of a record's bytes as an operation by itself. -/
def runPut (bytes : List Byte) (s : State) : Host.Outcome State Fault Refusal := runMicro (putBytes bytes) s

/-- SIG (R99). -/
def execSig (s : State) : Host.Outcome State Fault Refusal := runPut sigBytes s

/-- LSD (R100). -/
def execLsd (w h : BitVec 16) (cres : BitVec 3) (s : State) : Host.Outcome State Fault Refusal :=
  runPut (lsdBytes w h cres) s

/-- GCT (R102). -/
def execGct (gray : Byte) (s : State) : Host.Outcome State Fault Refusal := runPut (gctBytes gray) s

/-- APPEXT (R103). -/
def execAppext (s : State) : Host.Outcome State Fault Refusal := runPut appextBytes s

/-- GCE (R104). -/
def execGce (pause : BitVec 16) (s : State) : Host.Outcome State Fault Refusal := runPut (gceBytes pause) s

/-- IMGDESC (R105). -/
def execImgdesc (w h : BitVec 16) (s : State) : Host.Outcome State Fault Refusal := runPut (imgdescBytes w h) s

/-- MINCODE (R106). -/
def execMincode (s : State) : Host.Outcome State Fault Refusal := runPut mincodeBytes s

/-- SUBBLOCK (R97): the length byte and the data bytes. -/
def execSubblock (n : Byte) (data : List Byte) (s : State) : Host.Outcome State Fault Refusal := runPut (n :: data) s

/-- TERMINATOR (R97). -/
def execTerminator (s : State) : Host.Outcome State Fault Refusal := runPut terminatorBytes s

/-- TRAILER (R107): the byte alone; the release is CLOSE's. -/
def execTrailer (s : State) : Host.Outcome State Fault Refusal := runPut trailerBytes s

end Sys2Proof.Machine
end

