-- ==== Sys2Proof/Machine/Raster.lean ====
section
/-! DEFINITION. The PixelSampler and the FrameRasterizer: XLATE, SAMPLE and the command RAST
(spec/40_sampler_rasterizer.md). -/

namespace Sys2Proof.Machine

/-- What a pixel is before any cell is asked: on a gridline, or inside a cell. -/
inductive PixelKind where
  | gridline
  | inCell (col row : Int)
  deriving DecidableEq, Repr

/-- The arithmetic of SAMPLE (R141): the offsets are exact, a gridline wins, and x gives the column. -/
def pixelKind (s : State) (x y : Nat) : PixelKind :=
  let ox := (x : Int) + s.tx.toInt
  let oy := (y : Int) + s.ty.toInt
  if fmod ox s.p.toNat < s.grid.toNat ∨ fmod oy s.p.toNat < s.grid.toNat then .gridline
  else .inCell (fdiv ox s.p.toNat) (fdiv oy s.p.toNat)

/-- The symbol of a cell's answer. -/
def cellSymbol (live : Bool) : Symbol := if live then 1 else 0

/-- SAMPLE (R141): the symbol of a pixel, `none` if its cell query is never answered, and the state after it. -/
def sample (x y : Nat) (s : State) : Option Symbol × State :=
  match pixelKind s x y with
  | .gridline => (some 2, s)
  | .inCell col row =>
    match queryCell col row s with
    | (some live, s') => (some (cellSymbol live), s')
    | (none, s') => (none, s'.wait .cell)

/-- The pixel loops of RAST (R143), counted by PIX: `n` pixels are left, `done` holds the symbols written so far, the
newest first. -/
def rastLoop : Nat → List Symbol → State → Flow
  | 0, done, s => .go { s with raster := rasterStore done s.raster }
  | n + 1, done, s =>
    match sample (s.pix.toNat % s.w.toNat) (s.pix.toNat / s.w.toNat) s with
    | (some sym, s') => rastLoop n (sym :: done) { s' with pix := s'.pix + 1 }
    | (none, s') => .halt { s' with raster := rasterStore done s'.raster }

/-- The lines of RAST (R143). -/
def rastBody (s : State) : Flow :=
  (xlateFrame s).andThen fun s1 =>
    (rastLoop s1.pixels [] { s1 with pix := 0 }).andThen fun s2 => .go { s2 with state := .rastered }

/-- RAST (R143). -/
def execRast (s : State) : Host.Outcome State Fault Refusal := acceptCommand .rast rastBody s

end Sys2Proof.Machine
end

