-- ==== Sys2Proof/Machine/Writer.lean ====
section
/-! DEFINITION. The GifWriter: the commands HDR, WFRM and CLOSE (spec/42_gif_writer.md). -/

namespace Sys2Proof.Machine

/-- The 44 bytes HDR writes (R202): SIG, LSD, GCT, APPEXT. -/
def headerBytes (params : Params) (w h : BitVec 16) : List Byte :=
  sigBytes ++ lsdBytes w h params.cres ++ gctBytes params.gray ++ appextBytes

/-- The bytes WFRM writes (R203): GCE, IMGDESC, MINCODE and the sub-blocks. -/
def frameBytes (pause w h : BitVec 16) (lzwb : List Byte) : List Byte :=
  gceBytes pause ++ imgdescBytes w h ++ mincodeBytes ++ lzwb

/-- The lines of HDR (R202). -/
def hdrBody (s : State) : Flow :=
  (openSink s).andThen fun s1 =>
    (putBytes (headerBytes s1.params s1.w s1.h) s1).andThen fun s2 => .go { s2 with state := .isOpen }

/-- The lines of WFRM (R203). FIDX counts modulo 2^32 (10_state R24). -/
def wfrmBody (s : State) : Flow :=
  (putBytes (frameBytes s.pause s.w s.h s.lzwb) s).andThen fun s1 =>
    .go { s1 with fidx := s1.fidx + 1, state := .isOpen }

/-- The lines of CLOSE (R204). -/
def closeBody (s : State) : Flow :=
  (putBytes trailerBytes s).andThen fun s1 => .go { s1.release with state := .closed, done := true }

/-- HDR (R202). -/
def execHdr (s : State) : Host.Outcome State Fault Refusal := acceptCommand .hdr hdrBody s

/-- WFRM (R203). -/
def execWfrm (s : State) : Host.Outcome State Fault Refusal := acceptCommand .wfrm wfrmBody s

/-- CLOSE (R204). -/
def execClose (s : State) : Host.Outcome State Fault Refusal := acceptCommand .close closeBody s

end Sys2Proof.Machine
end

