-- ==== Sys2Proof/Machine/Sequencer.lean ====
section
/-! DEFINITION. The sequencer and driver loop: CFG, ADV, the macros FRAME and RUN, and the reserved command bytes
(spec/43_sequencer.md, 30_encoding R93). -/

namespace Sys2Proof.Machine

/-- The first lines of CFG (R232): the configuration port is latched and the period computed. -/
def latchConfig (s : State) : State :=
  { s with frames := s.env.pins.frames, pause := s.env.pins.pause, cell := s.env.pins.cell,
           grid := s.env.pins.grid, cols := s.env.pins.cols, rows := s.env.pins.rows,
           p := BitVec.ofNat 17 (s.env.pins.cell.toNat + s.env.pins.grid.toNat) }

/-- The lines of CFG (R232): latch, derive the canvas, check it; the checks in the order written (60 R268). -/
def cfgBody (s : State) : Flow :=
  let s1 := latchConfig s
  let w := canvasDim s1.p s1.cols s1.grid
  let h := canvasDim s1.p s1.rows s1.grid
  if !dimOk w then .halt (s1.raise .dim (dimInfo false w))
  else if !dimOk h then .halt (s1.raise .dim (dimInfo true h))
  else if s1.frames = 0 then .halt (s1.raise .badParam 0)
  else .go { s1 with w := BitVec.ofNat 16 w, h := BitVec.ofNat 16 h, state := .ready }

/-- The line of ADV (R233). -/
def advBody (s : State) : Flow := advanceBy 1 s

/-- The lines of FRAME (R234): RAST, ENC, WFRM. -/
def frameBody (s : State) : Flow := ((rastBody s).andThen encBody).andThen wfrmBody

/-- The frame loop of RUN (R235): a frame while FIDX < FRAMES, a step between frames only. `fuel` is the number of
frames left. -/
def runLoop : Nat → State → Flow
  | 0, s => .go s
  | fuel + 1, s =>
    if s.fidx.toNat < s.frames.toNat then
      ((frameBody s).andThen fun s1 => if s1.fidx.toNat < s1.frames.toNat then advBody s1 else .go s1).andThen
        (runLoop fuel)
    else .go s

/-- The lines of RUN (R235). -/
def runBody (s : State) : Flow :=
  (((cfgBody s).andThen hdrBody).andThen fun s1 => runLoop (s1.frames.toNat - s1.fidx.toNat) s1).andThen closeBody

/-- CFG (R232). -/
def execCfg (s : State) : Host.Outcome State Fault Refusal := acceptCommand .cfg cfgBody s

/-- ADV (R233). -/
def execAdv (s : State) : Host.Outcome State Fault Refusal := acceptCommand .adv advBody s

/-- FRAME (R234). -/
def execFrame (s : State) : Host.Outcome State Fault Refusal := acceptCommand .frame frameBody s

/-- RUN (R235). -/
def execRun (s : State) : Host.Outcome State Fault Refusal := acceptCommand .run runBody s

/-- A reserved command byte (30_encoding R93): acceptance raises BADCMD before anything else happens. -/
def execReserved (r p : BitVec 4) (s : State) : Host.Outcome State Fault Refusal :=
  acceptCommand (.reserved r p) .go s

end Sys2Proof.Machine
end

