-- ==== Sys2Proof/Machine/Dispatch.lean ====
section
/-! DEFINITION. One arm per constructor of Instr: the meaning of every row of the opcode table. -/

namespace Sys2Proof.Machine

def exec (i : Instr) (s : State) : Host.Outcome State Fault Refusal :=
  match i with
  -- Command bytes (30_encoding R92, R93)
  | .cfg => Sys2Proof.Machine.execCfg s
  | .hdr => Sys2Proof.Machine.execHdr s
  | .rast => Sys2Proof.Machine.execRast s
  | .enc => Sys2Proof.Machine.execEnc s
  | .wfrm => Sys2Proof.Machine.execWfrm s
  | .adv => Sys2Proof.Machine.execAdv s
  | .close => Sys2Proof.Machine.execClose s
  | .frame => Sys2Proof.Machine.execFrame s
  | .run => Sys2Proof.Machine.execRun s
  | .reserved r p => Sys2Proof.Machine.execReserved r p s
  -- LZW codes (30_encoding R94)
  | .lit sym => Sys2Proof.Machine.execLit sym s
  | .clear => Sys2Proof.Machine.execClear s
  | .eoi => Sys2Proof.Machine.execEoi s
  | .dict c => Sys2Proof.Machine.execDict c s
  -- Output records (30_encoding R97 to R107)
  | .sig => Sys2Proof.Machine.execSig s
  | .lsd w h cres => Sys2Proof.Machine.execLsd w h cres s
  | .gct gray => Sys2Proof.Machine.execGct gray s
  | .appext => Sys2Proof.Machine.execAppext s
  | .gce pause => Sys2Proof.Machine.execGce pause s
  | .imgdesc w h => Sys2Proof.Machine.execImgdesc w h s
  | .mincode => Sys2Proof.Machine.execMincode s
  | .subblock n data => Sys2Proof.Machine.execSubblock n data s
  | .terminator => Sys2Proof.Machine.execTerminator s
  | .trailer => Sys2Proof.Machine.execTrailer s

end Sys2Proof.Machine
end

