-- ==== Sys2Proof/Machine/Fetch.lean ====
section
/-! DEFINITION. Where the next operation comes from: the command and reset ports (spec/43_sequencer.md R230, R237;
70_reset R290, R291) and the micro-operation slot. -/

namespace Sys2Proof.Machine

/-- What a step finds to do. -/
inductive Fetched where
  /-- Run this operation in this state. -/
  | run (i : Instr) (s : State)
  /-- Nothing to run: this is the next state. -/
  | stay (s : State)
  /-- The core has no further step. -/
  | stuck (r : Fault)
  /-- The words found are no operation. -/
  | bad (r : Refusal)
  deriving DecidableEq, Repr

/-- Reset (70_reset R290, R291): the core has its reset values; a held sink is not released; the host supplies a fresh
sink (R292); the collaborator and the parameters of the implementation are as they were. -/
def State.afterReset (s : State) (openPlan : OpenPlan) (sinkPlan : SinkPlan) (script : List HostEvent) : State :=
  { State.reset with
      params := s.params,
      env := { s.env with script := script, openPlan := openPlan, sinkPlan := sinkPlan, trace := .rst :: s.env.trace } }

/-- The state in which a command byte is accepted: it is taken from the host, and the configuration port has the
values the host holds there. -/
def State.afterAccept (s : State) (pins : CfgPort) (script : List HostEvent) : State :=
  { s with env := { s.env with script := script, pins := pins } }

/-- What the core finds when it is ready (43_sequencer R230): the slot first, then the host's next command byte; with
neither, it does nothing (70_reset R290). -/
def fetchReady (s : State) : Fetched :=
  match s.slot with
  | some e =>
    match decode e with
    | .ok i => .run i { s with slot := none }
    | .bad r => .bad (.undecodable r)
  | none =>
    match s.env.script with
    | .command b pins :: script => .run (decodeCommand b) (s.afterAccept pins script)
    | _ => .stay s

/-- What a step finds to do. Reset wins over everything (70_reset R291); a core that waits for ever has no step
(R294); in CLOSED and FAULT no byte is accepted (43_sequencer R230) and nothing changes. -/
def fetch (s : State) : Fetched :=
  match s.env.script with
  | .reset openPlan sinkPlan :: script => .stay (s.afterReset openPlan sinkPlan script)
  | _ =>
    if s.busy then .stuck (.waitingForAnswer s.waiting)
    else if s.state.terminal then .stay s
    else fetchReady s

/-- The host's script without the resets it begins with. -/
def withoutReset : List HostEvent → List HostEvent
  | .reset _ _ :: script => withoutReset script
  | .command b pins :: script => .command b pins :: script
  | [] => []

/-- A code or a record put into the micro-operation slot; a reset pending at the port would win over it. -/
def placeMicro (s : State) (e : Encoded) : State :=
  { s with slot := some e, env := { s.env with script := withoutReset s.env.script } }

/-- The words placed where the next fetch finds them: a command byte is presented next by the host, with the
configuration port as it is; a code or a record is put into the micro-operation slot. -/
def placeWord (s : State) (e : Encoded) : State :=
  match e with
  | .command b => { s with slot := none, env := { s.env with script := .command b s.env.pins :: s.env.script } }
  | .code c => placeMicro s (.code c)
  | .record bytes => placeMicro s (.record bytes)
  | .block bytes => placeMicro s (.block bytes)

end Sys2Proof.Machine
end

