-- ==== Sys2Proof/Machine/Step.lean ====
section
/-! DEFINITION. One step of the machine: what the fetch finds, run. -/

namespace Sys2Proof.Machine

/-- One step: one command from acceptance to its end (43_sequencer R230), one event at the reset port, or nothing. -/
def step (s : State) : Host.Outcome State Fault Refusal :=
  match fetch s with
  | .run i s' => exec i s'
  | .stay s' => .next s'
  | .stuck r => .fault r
  | .bad r => .refused r

/-- `s` with the instruction of a table word placed where `step` fetches next. -/
def State.withFetchWord (s : State) (nbits w : Nat) : State :=
  match layoutWord nbits w with
  | some e => placeWord s e
  | none => s

end Sys2Proof.Machine
end

