-- ==== Sys2Proof/Machine/Reader.lean ====
section
/-! DEFINITION. The other side of the output: the codes an ENC sends (spec/41_lzw_encoder.md R170, 30_encoding R96) and
the matching decoder of 41_lzw R175. Nothing here is part of a step; claims about the output are stated with it. -/

namespace Sys2Proof.Machine

/-! ### The codes an ENC sends, each with its width -/

/-- The codes one LZW.SYM sends (R162, R163, R165): none on a hit, the match's code on a miss, and the clear code after
it when the code space is exhausted. -/
def symSends (sym : Nat) (l : Lzw) : List (Code × Nat) :=
  if l.curv = false then []
  else
    match Memory.read l.ct (ctAddress l.cur sym) with
    | some _ => []
    | none => (l.cur, l.cw.toNat) :: (if l.next = 4096 then [(4, l.cw.toNat)] else [])

/-- The codes that the rest of an ENC sends: those of its symbols, and the code of the final match (R166). -/
def sendsFrom : List Symbol → Lzw → List (Code × Nat)
  | [], l => [(l.cur, l.cw.toNat)]
  | sym :: rest, l => symSends sym.toNat l ++ ((lzwSym sym.toNat l).elim [] (sendsFrom rest))

/-- The codes an ENC of this raster sends (R170). -/
def codeStream (raster : List Symbol) : List (Code × Nat) := sendsFrom raster (lzwInit Lzw.reset)

/-- T of 30_encoding R96: the number of bits of a code list. -/
def codeBits : List (Code × Nat) → Nat
  | [] => 0
  | (_, width) :: rest => width + codeBits rest

/-- N of 30_encoding R96: the codes as one number, the first in the low bits. -/
def codeNumber : List (Code × Nat) → Nat
  | [] => 0
  | (c, width) :: rest => c.toNat + 2 ^ width * codeNumber rest

/-- The payload of a code list (30_encoding R96): ceil(T / 8) bytes, byte k holding bits 8k+7 to 8k of N. -/
def packCodes (codes : List (Code × Nat)) : List Byte := drainBytes ((codeBits codes + 7) / 8) (codeNumber codes)

/-! ### The matching decoder (41_lzw R175) -/

/-- The decoder between two codes: the strings of codes 6, 7, … in order, the previous string (none before a first
code), and the current width. -/
structure Reader where
  table : List (List Symbol)
  prev  : Option (List Symbol)
  width : Nat
  deriving DecidableEq, Repr

/-- The decoder at the start of a frame and after a clear code. -/
def Reader.start : Reader := { table := [], prev := none, width := 3 }

/-- The string of an assigned code: a literal, or an entry of the table. -/
def Reader.lookup (r : Reader) (c : Nat) : Option (List Symbol) :=
  if c < 4 then some [BitVec.ofNat 2 c]
  else if c < 6 then none
  else r.table[c - 6]?

/-- The decoder's assignment after a code that is not a first one: the previous string and the first symbol of the one
just output; the width grows after code 2^width - 1, and nothing is assigned when the code space is full. -/
def Reader.assign (r : Reader) (before now : List Symbol) : Reader :=
  if 6 + r.table.length = 4096 then { r with prev := some now }
  else
    { table := r.table ++ [before ++ now.take 1], prev := some now,
      width := if 6 + r.table.length = 2 ^ r.width - 1 ∧ r.width < 12 then r.width + 1 else r.width }

/-- One code: the symbols it outputs and the decoder after it; `none` if the code means nothing here. -/
def Reader.code (r : Reader) (c : Nat) : Option (List Symbol × Reader) :=
  if c = 4 then some ([], Reader.start)
  else
    match r.prev with
    | none => if c < 4 then some ([BitVec.ofNat 2 c], { r with prev := some [BitVec.ofNat 2 c] }) else none
    | some before =>
      match (if c = 6 + r.table.length then some (before ++ before.take 1) else r.lookup c) with
      | some now => some (now, r.assign before now)
      | none => none

/-- Decoding a list of codes whose widths are given: each width must be the one the decoder expects. -/
def readCodes : List (Code × Nat) → Reader → Option (List Symbol)
  | [], _ => some []
  | (c, width) :: rest, r =>
    if width = r.width then
      match r.code c.toNat with
      | some (now, r') => (readCodes rest r').map (now ++ ·)
      | none => none
    else none

/-- Decoding bits: `n` holds the `bits` bits still to be read, `want` symbols are still to come; `fuel` bounds the
number of codes. It stops when all wanted symbols are out. -/
def readBits : Nat → Nat → Nat → Nat → Reader → Option (List Symbol)
  | 0, _, _, _, _ => none
  | fuel + 1, n, bits, want, r =>
    if want = 0 then some []
    else if bits < r.width then none
    else
      match r.code (n % 2 ^ r.width) with
      | none => none
      | some (now, r') =>
        if now.length ≤ want then
          (readBits fuel (n / 2 ^ r.width) (bits - r.width) (want - now.length) r').map (now ++ ·)
        else none

/-- Bytes as one little-endian number (20_memory R66). -/
def bytesNumber : List Byte → Nat
  | [] => 0
  | b :: rest => b.toNat + 256 * bytesNumber rest

/-- A payload decoded to `want` symbols. -/
def readPayload (want : Nat) (payload : List Byte) : Option (List Symbol) :=
  readBits (8 * payload.length + 1) (bytesNumber payload) (8 * payload.length) want Reader.start

/-- A block series read off the front of a byte stream (30_encoding R97): the payload and what follows the
terminator; `fuel` bounds the number of blocks. -/
def readBlocks : Nat → List Byte → Option (List Byte × List Byte)
  | 0, _ => none
  | _ + 1, [] => none
  | fuel + 1, n :: rest =>
    if n = 0 then some ([], rest)
    else if rest.length < n.toNat then none
    else (readBlocks fuel (rest.drop n.toNat)).map fun (payload, after) => (rest.take n.toNat ++ payload, after)

/-- The symbols of a frame from its LZWB (41_lzw R175). -/
def readLzwb (want : Nat) (lzwb : List Byte) : Option (List Symbol) :=
  match readBlocks (lzwb.length + 1) lzwb with
  | some (payload, []) => readPayload want payload
  | _ => none

end Sys2Proof.Machine
end

