-- ==== Sys2Proof/Safety.lean ====
section
/-! DEFINITION. What claims about the machine are stated in: the invariants of its reachable states, the shape of the
output file, the answers of the surroundings that let a command complete, and programs as command lists. -/

namespace Sys2Proof.Machine

/-! ### The LZW registers (10_state R39) -/

/-- bitlen (00_scope R8): the number of bits of n. -/
def bitlen (n : Nat) : Nat := if n = 0 then 0 else n.log2 + 1

/-- The ranges of 10_state R31 to R33 and the invariants R39 (1) to (4). -/
structure LzwInv (l : Lzw) : Prop where
  next_range : 6 ≤ l.next.toNat ∧ l.next.toNat ≤ 4096
  cw_eq : l.cw.toNat = max 3 (bitlen (l.next.toNat - 1))
  acc_range : l.nb.toNat ≤ 7 ∧ l.acc.toNat < 2 ^ l.nb.toNat
  ct_wf : Memory.wf l.ct = true
  ct_values : (l.ct.map (fun e => e.2.toNat)).Perm (List.range' 6 (l.next.toNat - 6))
  ct_keys : ∀ e ∈ l.ct, e.1 / 4 < e.2.toNat ∧ e.1 / 4 ≠ 4 ∧ e.1 / 4 ≠ 5
  cur_ok : l.curv = true → l.cur.toNat < l.next.toNat ∧ l.cur ≠ 4 ∧ l.cur ≠ 5

/-! ### The output file (30_encoding R98) -/

/-- `frame := GCE IMGDESC MINCODE LZWB`, the LZWB of a payload of at least one byte. -/
def IsFrame (pause w h : BitVec 16) (bytes : List Byte) : Prop :=
  ∃ payload : List Byte, payload ≠ [] ∧ bytes = frameBytes pause w h (chunk payload)

/-- The file up to its trailer: the header and `n` frames. -/
def IsOpenFile (params : Params) (pause w h : BitVec 16) (n : Nat) (bytes : List Byte) : Prop :=
  ∃ frames : List (List Byte), frames.length = n ∧ (∀ f ∈ frames, IsFrame pause w h f) ∧
    bytes = headerBytes params w h ++ frames.flatten

/-- A complete file of `n` frames. -/
def IsFile (params : Params) (pause w h : BitVec 16) (n : Nat) (bytes : List Byte) : Prop :=
  ∃ body, IsOpenFile params pause w h n body ∧ bytes = body ++ trailerBytes

/-- OUT is the beginning of some complete file. -/
def OutBegins (s : State) : Prop :=
  ∃ pause w h n file, IsFile s.params pause w h n file ∧ s.out <+: file

/-! ### The invariant of the reachable states -/

/-- The canvas registers agree with the parameters and are in range (10_state R22). -/
structure CanvasOk (s : State) : Prop where
  period : s.p.toNat = s.cell.toNat + s.grid.toNat
  period_pos : 1 ≤ s.p.toNat
  width : s.w.toNat = canvasDim s.p s.cols s.grid
  height : s.h.toNat = canvasDim s.p s.rows s.grid
  width_pos : 1 ≤ s.w.toNat
  height_pos : 1 ≤ s.h.toNat

/-- STATE is READY or later and not FAULT. -/
def SeqState.configured : SeqState → Bool
  | .idle | .fault => false
  | .ready | .isOpen | .rastered | .encoded | .closed => true

/-- The core holds the sink between commands in these STATEs. -/
def SeqState.holdsSink : SeqState → Bool
  | .isOpen | .rastered | .encoded => true
  | .idle | .ready | .closed | .fault => false

/-- What every state that a run from reset reaches satisfies: the flags (10_state R27), the fault record (R28), OUTCNT
(R29), OPENED (R37), the canvas (R22), the LZW registers (R39), LZWB (R36), and OUT against STATE (43_sequencer R238).
A core that waits for ever (`waiting`) may be in the middle of a command. -/
structure Inv (s : State) : Prop where
  slot : s.slot = none
  busy : s.busy = s.waiting.isSome
  fault : s.fault = decide (s.state = .fault)
  done : s.done = decide (s.state = .closed)
  cause : s.cause = .none ↔ s.state ≠ .fault
  info : s.cause = .none → s.info = 0
  terminal : s.state.terminal = true → s.waiting = none
  outcnt : s.outcnt = BitVec.ofNat 64 s.out.length
  opened : s.waiting = none → s.opened = s.state.holdsSink
  canvas : s.state.configured = true → CanvasOk s
  frames : s.state.configured = true → s.frames ≠ 0
  lzw : LzwInv s.lzw
  lzwb : s.state = .encoded → ∃ payload : List Byte, payload ≠ [] ∧ s.lzwb = chunk payload
  idle_fidx : s.state = .idle → s.fidx = 0
  ready_fidx : s.state = .ready → s.fidx = 0
  idle_out : s.state = .idle → s.out = []
  ready_out : s.state = .ready → s.waiting = none → s.out = []
  open_out : s.state.holdsSink = true → s.waiting = none →
    ∃ n, s.fidx = BitVec.ofNat 32 n ∧ IsOpenFile s.params s.pause s.w s.h n s.out
  closed_out : s.state = .closed → ∃ n, s.fidx = BitVec.ofNat 32 n ∧ IsFile s.params s.pause s.w s.h n s.out
  out_begins : OutBegins s

/-! ### The answers that let a command complete (43_sequencer R236: provided each handshake it makes is answered) -/

/-- The sink's answer to the `k`-th byte from now, all bytes before it accepted, when it holds `held` bytes now. -/
def Env.putAnswerAt (e : Env) (held k : Nat) : SinkAnswer :=
  match e.sinkPlan with
  | .free => Config.putAnswer (e.trace.length + k)
  | .accepts count after => if held + k < count then .ok else after

/-- The sink accepts the next `n` bytes. -/
def Env.takes (e : Env) (held n : Nat) : Prop := ∀ k, k < n → e.putAnswerAt held k = .ok

/-- The sink accepts every byte from now on, whatever it holds. -/
def Env.takesAll (e : Env) : Prop := ∀ held k, e.putAnswerAt held k = .ok

/-- The entries a byte sequence whose every byte is accepted leaves in the trace, newest first. -/
def putCalls (bytes : List Byte) : List PortCall := (bytes.map fun b => PortCall.put b .ok).reverse

/-- The state after these bytes have all been accepted by the sink (42_gif_writer R200). -/
def State.afterPuts (s : State) (bytes : List Byte) : State :=
  { s with out := s.out ++ bytes, outcnt := s.outcnt + BitVec.ofNat 64 bytes.length,
           env := { s.env with trace := putCalls bytes ++ s.env.trace } }

/-- The symbol SAMPLE gives for a pixel (40_sampler R141), `none` if its cell query is never answered. -/
def pixelSymbol (s : State) (x y : Nat) : Option Symbol :=
  match pixelKind s x y with
  | .gridline => some 2
  | .inCell col row => (s.env.cellAnswer col row).map cellSymbol

/-- Every pixel of the canvas has a symbol: the translation is in TX and TY, and every cell query is answered. -/
def PixelsAnswered (s : State) : Prop :=
  ∀ x y, x < s.w.toNat → y < s.h.toNat → (pixelSymbol s x y).isSome = true

/-- The cell queries of the first `n` pixels of a frame in the order RAST makes them (40_sampler R144). -/
def pixelQueries (s : State) (n : Nat) : List PortCall :=
  (List.range n).filterMap fun i =>
    match pixelKind s (i % s.w.toNat) (i / s.w.toNat) with
    | .gridline => none
    | .inCell col row => some (.cell col row)

/-- The cell queries of a whole frame. -/
def frameQueries (s : State) : List PortCall := pixelQueries s s.pixels

/-- The state CFG leaves when its checks pass, but for STATE (43_sequencer R232). -/
def State.configured (s : State) : State :=
  let s1 := latchConfig s
  { s1 with w := BitVec.ofNat 16 (canvasDim s1.p s1.cols s1.grid), h := BitVec.ofNat 16 (canvasDim s1.p s1.rows s1.grid) }

/-- Every request RUN makes for its frames is answered (43_sequencer R236): for frame `f` the translation and, in the
collaborator state `f` steps on, every pixel; and the advance request after every frame but the last. -/
def RunAnswered (s : State) : Prop :=
  (∀ f, f < s.env.pins.frames.toNat → ∃ tx ty, s.env.xlateAnswer (BitVec.ofNat 32 f) = some (tx, ty) ∧
    PixelsAnswered { s.configured with tx := tx, ty := ty, env := { s.env with steps := s.env.steps + f } }) ∧
  (∀ f, f + 1 < s.env.pins.frames.toNat →
    Env.advanceAnswer { s.env with steps := s.env.steps + f } = true)

/-! ### The bytes of the records, from the tables of 30_encoding -/

/-- The low byte of a 16-bit value. -/
def lowByte (v : BitVec 16) : Byte := BitVec.ofNat 8 (v.toNat % 256)

/-- The high byte of a 16-bit value. -/
def highByte (v : BitVec 16) : Byte := BitVec.ofNat 8 (v.toNat / 256)

/-- The output bytes of a record row, byte by byte as the tables of 30_encoding R97 to R107 list them; the other rows
have none. -/
def rowBytes : Instr → Option (List Byte)
  | .sig => some [0x47, 0x49, 0x46, 0x38, 0x39, 0x61]
  | .lsd w h cres =>
    some [lowByte w, highByte w, lowByte h, highByte h, BitVec.ofNat 8 (0x81 + 16 * cres.toNat), 0x00, 0x00]
  | .gct gray => some [0xFF, 0xFF, 0xFF, 0x00, 0x00, 0x00, gray, gray, gray, 0x00, 0x00, 0x00]
  | .appext =>
    some [0x21, 0xFF, 0x0B, 0x4E, 0x45, 0x54, 0x53, 0x43, 0x41, 0x50, 0x45, 0x32, 0x2E, 0x30, 0x03, 0x01, 0x00, 0x00, 0x00]
  | .gce pause => some [0x21, 0xF9, 0x04, 0x00, lowByte pause, highByte pause, 0x00, 0x00]
  | .imgdesc w h => some [0x2C, 0x00, 0x00, 0x00, 0x00, lowByte w, highByte w, lowByte h, highByte h, 0x00]
  | .mincode => some [0x02]
  | .subblock n data => some (n :: data)
  | .terminator => some [0x00]
  | .trailer => some [0x3B]
  | .cfg | .hdr | .rast | .enc | .wfrm | .adv | .close | .frame | .run | .reserved _ _ => none
  | .lit _ | .clear | .eoi | .dict _ => none

/-- The number of codes since the last clear code of a code list, the clear code not counted (30_encoding R95). -/
def sinceClear (codes : List (Code × Nat)) : Nat := (codes.reverse.takeWhile fun e => e.1 != 4).length

/-! ### Programs (30_encoding R110) -/

/-- Commands issued one after another, each to its end; `none` if one of them has no next state. -/
def issue : List Instr → State → Option State
  | [], s => some s
  | i :: rest, s =>
    match exec i s with
    | .next s' => issue rest s'
    | .fault _ => none
    | .refused _ => none

/-- The expansion of RUN for a number of frames (30_encoding R110). -/
def runExpansion (frames : Nat) : List Instr :=
  [.cfg, .hdr, .frame] ++ (List.replicate (frames - 1) [Instr.adv, .frame]).flatten ++ [.close]

/-- What RUN's frame loop does at the ports when every request is answered, oldest first and without the cell queries:
for each frame, numbered from `f` on, its translation request and its bytes, and one advance of one step before the next
frame (43_sequencer R235, 20_memory R71). -/
def frameCalls : Nat → List (List Byte) → List PortCall
  | _, [] => []
  | f, frame :: rest =>
    .xlate (BitVec.ofNat 32 f) :: frame.map (fun b => PortCall.put b .ok) ++
      (if rest = [] then [] else .advance 1 :: frameCalls (f + 1) rest)

/-- Everything seen at the ports but the cell queries. -/
def withoutCells (trace : List PortCall) : List PortCall :=
  trace.filter fun c =>
    match c with
    | .cell _ _ => false
    | .xlate _ | .advance _ | .openSink _ | .put _ _ | .release | .rst => true

end Sys2Proof.Machine
end

