-- ==== Sys2Proof/Certificates/Slice0/Obligations.lean ====
section
/-! DEFINITION. The statements for the provers, from the numbered rules of spec/. Each docstring names the rules; a
statement about a next state covers every form of its instructions, or says which states it is about. -/

open Sys2Proof Sys2Proof.Machine

/-! ### Encoding (30_encoding) -/

/-- Decoding an encoded well-formed instruction gives it back, for every row and every operand (30_encoding R91 to R107). -/
def Obligations.EncodeThenDecodeGivesTheInstruction : Prop :=
  ∀ i : Instr, i.wellFormed = true → decode (encode i) = .ok i

/-- Words that decode are the words of the instruction they decode to, and that instruction is well-formed. -/
def Obligations.DecodedWordsEncodeBack : Prop :=
  ∀ (e : Encoded) (i : Instr), decode e = .ok i → encode i = e ∧ i.wellFormed = true

/-- A few words written out from 30_encoding R92, R93, R94, R97, R100 decode to the rows they stand for. -/
def Obligations.SpecWordsDecodeAsListed : Prop :=
  decode (.command 0x05) = .ok .wfrm ∧ decode (.command 0x0A) = .ok (.reserved 0x0 0xA) ∧
  decode (.code 0x003) = .ok (.lit 3) ∧ decode (.code 0x006) = .ok (.dict 6) ∧
  decode (.record [0x0A, 0x00, 0x05, 0x00, 0x91, 0x00, 0x00]) = .ok (.lsd 10 5 1) ∧
  decode (.block [0x02, 0xF0, 0x11]) = .ok (.subblock 2 [0xF0, 0x11]) ∧
  decode (.record [0x21, 0xF9, 0x04, 0x01, 0x00, 0x00, 0x00, 0x00]) = .bad .notARecord

/-! ### A step (43_sequencer R230, R237; 70_reset) -/

/-- A step runs the command the host presents, once it is ready, in the state that has taken the byte and sees the
configuration port; and it runs a code or record placed in the micro-operation slot (the model's own, assumption 7). -/
def Obligations.StepRunsTheDecodedInstruction : Prop :=
  (∀ (s : State) (b : Byte) (pins : CfgPort) (script : List HostEvent),
    s.cmdReady = true → s.slot = none → s.env.script = .command b pins :: script →
    step s = exec (decodeCommand b) { s with env := { s.env with script := script, pins := pins } }) ∧
  (∀ (s : State) (e : Encoded) (i : Instr),
    s.cmdReady = true → (∀ o k script, s.env.script ≠ .reset o k :: script) → s.slot = some e → decode e = .ok i →
    step s = exec i { s with slot := none })

/-- With no reset pending: a ready core to which nothing is presented does nothing, a core in CLOSED or FAULT accepts
nothing and does not change, and a core that waits for an answer that never comes has no step. That each is a step, or
a fault, of this form is the model's choice (assumptions 4 and 15). -/
def Obligations.StepWithoutACommandToRun : Prop :=
  ∀ s : State, (∀ o k script, s.env.script ≠ .reset o k :: script) →
    (s.cmdReady = true → s.slot = none → s.env.script = [] → step s = .next s) ∧
    (s.busy = false → (s.state = .closed ∨ s.state = .fault) → step s = .next s) ∧
    (s.busy = true → step s = .fault (.waitingForAnswer s.waiting))

/-- Reset (70_reset R290): the stated registers have their values whatever the state was, OUT is empty (10_state R40), and
with nothing presented nothing happens. -/
def Obligations.ResetLeavesTheStatedValues : Prop :=
  ∀ (s : State) (o : OpenPlan) (k : SinkPlan) (script : List HostEvent), s.env.script = .reset o k :: script →
    ∃ t, step s = .next t ∧ t.state = .idle ∧ t.busy = false ∧ t.done = false ∧ t.fault = false ∧ t.opened = false ∧
      t.cause = .none ∧ t.info = 0 ∧ t.fidx = 0 ∧ t.outcnt = 0 ∧ t.out = [] ∧ (script = [] → step t = .next t)

/-- Reset wins over everything, also in a core that waits for ever or is at the end of a run; it sends no release pulse
(70_reset R291), the parameters of the implementation stay (00_scope R6), and the collaborator is not stepped. That the
host's further events and the fresh sink's answers are those the event names is the model's own (assumptions 10, 19). -/
def Obligations.ResetWinsAndDoesNotRelease : Prop :=
  ∀ (s : State) (o : OpenPlan) (k : SinkPlan) (script : List HostEvent), s.env.script = .reset o k :: script →
    ∃ t, step s = .next t ∧ t.waiting = none ∧ t.slot = none ∧ t.params = s.params ∧
      t.env = { s.env with script := script, openPlan := o, sinkPlan := k, trace := .rst :: s.env.trace }

/-- 60_exceptions R270, and R230 for CLOSED: at the end of a run a step changes nothing at all; only reset leaves the
state, and it starts a new run with an empty OUT. -/
def Obligations.OnlyResetLeavesTheEndOfARun : Prop :=
  ∀ s : State, (s.state = .fault ∨ s.state = .closed) → s.busy = false →
    ((∀ o k script, s.env.script ≠ .reset o k :: script) ∧ step s = .next s) ∨
    (∃ o k script t, s.env.script = .reset o k :: script ∧ step s = .next t ∧ t.out = [] ∧ t.state = .idle ∧
      t.fault = false ∧ t.cause = .none)

/-- The invariant of the reachable states holds at reset. For the LZW registers it rests on the reset values the model
chose (assumption 5). -/
def Obligations.ReachableInvariantHoldsAtReset : Prop := Inv State.reset

/-- Every step keeps the invariant of the reachable states, among its clauses R22, R27, R28, R29, R39 and R238. Across a
reset step its clause about the LZW registers rests on the reset values the model chose for them (assumption 5); the
clause that the slot is empty is about the model's own field (assumption 7), and the one that BUSY = 1 only in a core that
waits is the model's grain of a step (assumptions 3 and 4). -/
def Obligations.EveryStepKeepsTheReachableInvariant : Prop :=
  ∀ s t : State, Inv s → step s = .next t → Inv t

/-! ### Acceptance and legality (43_sequencer R230, R231; 60_exceptions) -/

/-- While BUSY = 1 and in CLOSED and FAULT no command byte is accepted: nothing changes (R230). -/
def Obligations.NoCommandIsAcceptedUnlessReady : Prop :=
  ∀ (s : State) (b : Byte), (s.busy = true ∨ s.state = .closed ∨ s.state = .fault) →
    exec (decodeCommand b) s = .next s

/-- 30_encoding R93: a reserved byte raises BADCMD; a defined command in a STATE it is not legal in raises SEQ. The
term of a RESERVED row raises BADCMD whatever its fields. -/
def Obligations.ReservedBytesRaiseBadCmd : Prop :=
  ∀ (s : State), s.cmdReady = true →
    (∀ b : Byte, (b.toNat / 16 ≠ 0 ∨ b.toNat % 16 = 0 ∨ 10 ≤ b.toNat % 16) →
      exec (decodeCommand b) s = .next (s.raise .badCmd (BitVec.ofNat 64 b.toNat))) ∧
    (∀ b : Byte, b.toNat / 16 = 0 → b.toNat % 16 ≠ 0 → b.toNat % 16 < 10 →
      ∃ legal, legalState (decodeCommand b) = some legal ∧
        (s.state ≠ legal → exec (decodeCommand b) s =
          .next (s.raise .seq (BitVec.ofNat 64 (256 * s.state.code.toNat + b.toNat))))) ∧
    (∀ r p : BitVec 4, exec (.reserved r p) s = .next (s.raise .badCmd (BitVec.ofNat 64 (16 * r.toNat + p.toNat))))

/-- The legality table (R231): each command is legal in one STATE and raises SEQ in every other; run in its STATE, it
ends in the table's STATE after success, in FAULT, or waiting for an answer. -/
def Obligations.LegalityTableOfTheCommands : Prop :=
  ∀ (s : State) (i : Instr) (legal after : SeqState), s.cmdReady = true →
    (i, legal, after) ∈ [(Instr.cfg, SeqState.idle, SeqState.ready), (.hdr, .ready, .isOpen), (.rast, .isOpen, .rastered),
      (.enc, .rastered, .encoded), (.wfrm, .encoded, .isOpen), (.adv, .isOpen, .isOpen), (.close, .isOpen, .closed),
      (.frame, .isOpen, .isOpen), (.run, .idle, .closed)] →
    (s.state ≠ legal → exec i s = .next (s.raise .seq (seqInfo s.state (commandByte i)))) ∧
    (s.state = legal → ∃ t, exec i s = .next t ∧ (t.state = after ∧ t.busy = false ∨ t.state = .fault ∨ t.busy = true))

/-- Fault entry (60_exceptions R269): the record, the release if the sink is held, STATE, FAULT and BUSY, and every
other field as it was. -/
def Obligations.FaultEntryChangesOnlyTheFaultRecord : Prop :=
  ∀ (s : State) (cause : Cause) (info : BitVec 64),
    s.raise cause info =
      { s with cause := cause, info := info, opened := false, state := .fault, fault := true, busy := false,
               env := { s.env with trace := if s.opened then .release :: s.env.trace else s.env.trace } }

/-- 10_state R28: an instruction leaves the fault record as it is, or it enters FAULT from another STATE and writes a
cause. -/
def Obligations.FaultRecordIsWrittenOnce : Prop :=
  ∀ (i : Instr) (s t : State), exec i s = .next t →
    (t.cause = s.cause ∧ t.info = s.info ∧ t.fault = s.fault) ∨
    (s.state ≠ .fault ∧ t.state = .fault ∧ t.fault = true ∧ t.cause ≠ .none)

/-- 42_gif_writer R205: when an instruction gives the sink back, the run is over and the last thing at the ports is
the release pulse. -/
def Obligations.SinkIsReleasedOnlyAtTheEnd : Prop :=
  ∀ (i : Instr) (s t : State), exec i s = .next t → s.opened = true → t.opened = false →
    (t.state = .closed ∨ t.state = .fault) ∧ t.env.trace.head? = some .release

/-- 70_reset R294, in the model's form of it (assumption 4): a request never answered leaves the core waiting with
BUSY = 1. The translation request of RAST; its first unanswered cell query, at pixel `k`, with the RASTER cells before it
written and no other (assumption 23); the advance request of ADV. Open and Put have their own statements
(HdrReportsASinkThatDoesNotOpen, PutKeepsOnlyAcceptedBytes). Conversely, an instruction that ends with BUSY = 1 waits at
a port, neither CLOSED nor FAULT, and such a core has no step. -/
def Obligations.UnansweredRequestLeavesTheCoreWaiting : Prop :=
  (∀ s : State, s.cmdReady = true → s.state = .isOpen → s.env.xlateAnswer s.fidx = none →
    exec .rast s = .next ((s.log (.xlate s.fidx)).wait .translation)) ∧
  (∀ (s : State) (tx ty : BitVec 32) (k : Nat), s.cmdReady = true → s.state = .isOpen →
    s.env.xlateAnswer s.fidx = some (tx, ty) → k < s.pixels →
    let s1 : State := { s with tx := tx, ty := ty }
    (∀ i, i < k → (pixelSymbol s1 (i % s.w.toNat) (i / s.w.toNat)).isSome = true) →
    pixelSymbol s1 (k % s.w.toNat) (k / s.w.toNat) = none →
    ∃ t, exec .rast s = .next t ∧
      t = { s1 with pix := BitVec.ofNat 32 k, raster := t.raster, busy := true, waiting := some .cell,
                    env := { s.env with trace :=
                      (pixelQueries s1 (k + 1)).reverse ++ .xlate s.fidx :: s.env.trace } } ∧
      (∀ i, i < k → t.raster[i]? = pixelSymbol s1 (i % s.w.toNat) (i / s.w.toNat)) ∧
      (∀ i, k ≤ i → t.raster[i]? = s.raster[i]?)) ∧
  (∀ s : State, s.cmdReady = true → s.state = .isOpen → s.env.advanceAnswer = false →
    exec .adv s = .next ((s.log (.advance 1)).wait .advance)) ∧
  (∀ (i : Instr) (s t : State), exec i s = .next t → s.busy = false → t.busy = true →
    t.waiting.isSome = true ∧ t.state ≠ .closed ∧ t.state ≠ .fault ∧
    ((∀ o k script, t.env.script ≠ .reset o k :: script) → step t = .fault (.waitingForAnswer t.waiting)))

/-! ### CFG (43_sequencer R232) -/

/-- CFG, whole: out of order SEQ; otherwise the six parameters and P are latched, then the checks in the order
written, and only when all pass W, H and STATE. -/
def Obligations.CfgLatchesAndChecksTheCanvas : Prop :=
  ∀ s : State, s.cmdReady = true →
    (s.state ≠ .idle → exec .cfg s = .next (s.raise .seq (seqInfo s.state 0x01))) ∧
    (s.state = .idle →
      let c := s.env.pins
      let period := c.cell.toNat + c.grid.toNat
      let width := period * c.cols.toNat + c.grid.toNat
      let height := period * c.rows.toNat + c.grid.toNat
      let latched : State := { s with frames := c.frames, pause := c.pause, cell := c.cell, grid := c.grid,
                                      cols := c.cols, rows := c.rows, p := BitVec.ofNat 17 period }
      exec .cfg s = .next (
        if width < 1 ∨ 65535 < width then latched.raise .dim (BitVec.ofNat 64 width)
        else if height < 1 ∨ 65535 < height then latched.raise .dim (BitVec.ofNat 64 (2 ^ 63 + height))
        else if c.frames = 0 then latched.raise .badParam 0
        else { latched with w := BitVec.ofNat 16 width, h := BitVec.ofNat 16 height, state := .ready }))

/-- 10_state R21, R22: no instruction but CFG and RUN writes a parameter or derived register, and out of IDLE none does. -/
def Obligations.ConfigurationIsWrittenOnlyFromIdle : Prop :=
  ∀ (i : Instr) (s t : State), exec i s = .next t → (s.state ≠ .idle ∨ (i ≠ .cfg ∧ i ≠ .run)) →
    t.frames = s.frames ∧ t.pause = s.pause ∧ t.cell = s.cell ∧ t.grid = s.grid ∧ t.cols = s.cols ∧ t.rows = s.rows ∧
    t.p = s.p ∧ t.w = s.w ∧ t.h = s.h

/-! ### The writer: HDR, WFRM, CLOSE (42_gif_writer) and the records (30_encoding) -/

/-- Put (R200): an accepted byte joins OUT and is counted, a refused one raises IO_WRITE with the count before it, and
an unanswered one leaves the core waiting (assumption 4). -/
def Obligations.PutKeepsOnlyAcceptedBytes : Prop :=
  ∀ (s : State) (b : Byte),
    (s.env.putAnswer s.out.length = .ok → ∃ t, putByte b s = .go t ∧ t.out = s.out ++ [b] ∧ t.outcnt = s.outcnt + 1 ∧
      t = { s with out := t.out, outcnt := t.outcnt, env := { s.env with trace := .put b .ok :: s.env.trace } }) ∧
    (s.env.putAnswer s.out.length = .error →
      putByte b s = .halt ((s.log (.put b .error)).raise .ioWrite s.outcnt)) ∧
    (s.env.putAnswer s.out.length = .never → putByte b s = .halt ((s.log (.put b .never)).wait .output))

/-- HDR (R202), when the sink opens and takes the 44 bytes: the bytes of 30_encoding R99, R100, R102, R103 in order. -/
def Obligations.HdrWritesTheHeader : Prop :=
  ∀ s : State, s.cmdReady = true → s.state = .ready → s.env.openAnswer = .ok →
    (s.log (.openSink .ok)).env.takes s.out.length 44 →
    let bytes : List Byte :=
      [0x47, 0x49, 0x46, 0x38, 0x39, 0x61] ++
      [lowByte s.w, highByte s.w, lowByte s.h, highByte s.h, BitVec.ofNat 8 (0x81 + 16 * s.params.cres.toNat), 0x00, 0x00] ++
      [0xFF, 0xFF, 0xFF, 0x00, 0x00, 0x00, s.params.gray, s.params.gray, s.params.gray, 0x00, 0x00, 0x00] ++
      [0x21, 0xFF, 0x0B, 0x4E, 0x45, 0x54, 0x53, 0x43, 0x41, 0x50, 0x45, 0x32, 0x2E, 0x30, 0x03, 0x01, 0x00, 0x00, 0x00]
    exec .hdr s = .next
      { s with opened := true, out := s.out ++ bytes, outcnt := s.outcnt + 44, state := .isOpen,
               env := { s.env with trace := putCalls bytes ++ .openSink .ok :: s.env.trace } }

/-- HDR when the sink does not open (R201): IO_OPEN before any byte, or waiting (assumption 4). -/
def Obligations.HdrReportsASinkThatDoesNotOpen : Prop :=
  ∀ s : State, s.cmdReady = true → s.state = .ready →
    (s.env.openAnswer = .error → exec .hdr s = .next ((s.log (.openSink .error)).raise .ioOpen 0)) ∧
    (s.env.openAnswer = .never → exec .hdr s = .next ((s.log (.openSink .never)).wait .openPort))

/-- WFRM (R203), when the sink takes every byte: the bytes of R104, R105, R106, then the sub-blocks; FIDX counts modulo
2^32. -/
def Obligations.WfrmWritesTheFrame : Prop :=
  ∀ s : State, s.cmdReady = true → s.state = .encoded →
    let bytes : List Byte :=
      [0x21, 0xF9, 0x04, 0x00, lowByte s.pause, highByte s.pause, 0x00, 0x00] ++
      [0x2C, 0x00, 0x00, 0x00, 0x00, lowByte s.w, highByte s.w, lowByte s.h, highByte s.h, 0x00] ++ [0x02] ++ s.lzwb
    s.env.takes s.out.length bytes.length →
    exec .wfrm s = .next
      { s with out := s.out ++ bytes, outcnt := s.outcnt + BitVec.ofNat 64 (19 + s.lzwb.length),
               fidx := BitVec.ofNat 32 (s.fidx.toNat + 1), state := .isOpen,
               env := { s.env with trace := putCalls bytes ++ s.env.trace } }

/-- CLOSE (R204), when the sink takes the trailer byte: it is appended, the sink is released, and DONE is set. -/
def Obligations.CloseEndsTheFile : Prop :=
  ∀ s : State, s.cmdReady = true → s.state = .isOpen → s.env.takes s.out.length 1 →
    exec .close s = .next
      { s with out := s.out ++ [0x3B], outcnt := s.outcnt + 1, opened := false, state := .closed, done := true,
               env := { s.env with trace :=
                 if s.opened then .release :: .put 0x3B .ok :: s.env.trace else .put 0x3B .ok :: s.env.trace } }

/-- Each record row, run by itself (the model's own, assumptions 7 and 18) in a state that is no end of a run and waits for nothing, appends the bytes that the
tables of 30_encoding list for it, when the sink takes them; and those bytes are its encoding. -/
def Obligations.RecordsAppendTheirBytes : Prop :=
  ∀ (i : Instr) (bytes : List Byte) (s : State), rowBytes i = some bytes → s.stopped = false →
    s.env.takes s.out.length bytes.length →
    exec i s = .next { s with out := s.out ++ bytes, outcnt := s.outcnt + BitVec.ofNat 64 bytes.length,
                              env := { s.env with trace := putCalls bytes ++ s.env.trace } } ∧
    (encode i = .record bytes ∨ encode i = .block bytes)

/-- 60_exceptions R260, R263: the sink refuses the byte after the first `k` of HDR, WFRM, CLOSE or a record: OUT holds
exactly the bytes accepted, INFO counts them, and nothing later happens. That a record runs by itself, without a check of
OPENED, is the model's own (assumptions 7 and 18). -/
def Obligations.RefusedByteEndsTheCommand : Prop :=
  ∀ (s s1 : State) (i : Instr) (bytes : List Byte) (k : Nat) (b : Byte),
    ((i = .hdr ∧ s.cmdReady = true ∧ s.state = .ready ∧ s.env.openAnswer = .ok ∧
        s1 = { s.log (.openSink .ok) with opened := true } ∧ bytes = headerBytes s.params s.w s.h) ∨
     (i = .wfrm ∧ s.cmdReady = true ∧ s.state = .encoded ∧ s1 = s ∧ bytes = frameBytes s.pause s.w s.h s.lzwb) ∨
     (i = .close ∧ s.cmdReady = true ∧ s.state = .isOpen ∧ s1 = s ∧ bytes = [0x3B]) ∨
     (s.stopped = false ∧ s1 = s ∧ rowBytes i = some bytes)) →
    bytes[k]? = some b → s1.env.takes s1.out.length k → s1.env.putAnswerAt s1.out.length k = .error →
    ∃ t, exec i s = .next t ∧ t.out = s.out ++ bytes.take k ∧ t.state = .fault ∧ t.fault = true ∧ t.busy = false ∧
      t.cause = .ioWrite ∧ t.info = s.outcnt + BitVec.ofNat 64 k ∧ t.outcnt = t.info ∧ t.opened = false ∧
      t.done = s.done ∧ t.fidx = s.fidx ∧
      t.env.trace =
        (if s1.opened then [.release] else []) ++ .put b .error :: putCalls (bytes.take k) ++ s1.env.trace

/-- 20_memory R63: OUT only grows at its end. -/
def Obligations.OutIsAppendOnly : Prop :=
  ∀ (i : Instr) (s t : State), exec i s = .next t → s.out <+: t.out

/-- 10_state R29: OUTCNT = len(OUT) at reset and after every step that starts with it; Put adds 1 on success only. -/
def Obligations.OutcntCountsTheAcceptedBytes : Prop :=
  State.reset.outcnt = BitVec.ofNat 64 State.reset.out.length ∧
  (∀ s t : State, s.outcnt = BitVec.ofNat 64 s.out.length → step s = .next t →
    t.outcnt = BitVec.ofNat 64 t.out.length) ∧
  (∀ (s : State) (b : Byte), (putByte b s).state.outcnt =
    if s.env.putAnswer s.out.length = .ok then s.outcnt + 1 else s.outcnt)

/-- 10_state R24: WFRM (by itself or inside FRAME and RUN) is the only writer of FIDX. -/
def Obligations.FidxIsWrittenOnlyByWfrm : Prop :=
  ∀ (i : Instr) (s t : State), exec i s = .next t → i ≠ .wfrm → i ≠ .frame → i ≠ .run → t.fidx = s.fidx

/-- 00_scope R6, 92 D12 and D14: GRAY and CRES reach nothing but the header: every instruction other than HDR and RUN
does the same under other values of them, no instruction writes them, and the header differs at offsets 10 and 19 to
21 only. -/
def Obligations.GrayAndCresReachOnlyTheHeader : Prop :=
  (∀ (i : Instr) (s t : State) (q : Params), i ≠ .hdr → i ≠ .run → exec i s = .next t →
    exec i { s with params := q } = .next { t with params := q }) ∧
  (∀ (i : Instr) (s t : State), exec i s = .next t → t.params = s.params) ∧
  (∀ (q r : Params) (w h : BitVec 16) (k : Nat), k ≠ 10 → k ≠ 19 → k ≠ 20 → k ≠ 21 →
    (headerBytes q w h)[k]? = (headerBytes r w h)[k]?)

/-! ### ADV (43_sequencer R233) -/

/-- ADV: one advance request of one step, changing no register of the core; SEQ in every STATE but OPEN. -/
def Obligations.AdvStepsTheCollaborator : Prop :=
  ∀ s : State, s.cmdReady = true →
    (s.state = .isOpen → s.env.advanceAnswer = true →
      exec .adv s = .next { s with env := { s.env with steps := s.env.steps + 1, trace := .advance 1 :: s.env.trace } }) ∧
    (s.state ≠ .isOpen → exec .adv s = .next (s.raise .seq (seqInfo s.state 0x06)))

/-! ### The sampler and RAST (40_sampler_rasterizer) -/

/-- 00_scope R8: floor division and its remainder. -/
def Obligations.FloorDivisionLaws : Prop :=
  ∀ (a : Int) (b : Nat), 1 ≤ b → a = b * fdiv a b + fmod a b ∧ 0 ≤ fmod a b ∧ fmod a b < b

/-- SAMPLE (R141) in Euclidean division, and its result is never 3. -/
def Obligations.SampleFollowsTheFormula : Prop :=
  ∀ (s : State) (x y : Nat), 1 ≤ s.p.toNat →
    let ox := (x : Int) + s.tx.toInt
    let oy := (y : Int) + s.ty.toInt
    pixelSymbol s x y =
      (if ox % s.p.toNat < s.grid.toNat ∨ oy % s.p.toNat < s.grid.toNat then some 2
       else (s.env.cellAnswer (ox / s.p.toNat) (oy / s.p.toNat)).map fun live => if live then 1 else 0) ∧
    pixelSymbol s x y ≠ some 3

/-- RAST (R143, R144), when the translation and every cell query is answered: W*H symbols in row-major order, exactly
the cell queries of the frame in that order, and nothing else written. PIX ends at W*H (assumption 17). -/
def Obligations.RastFillsTheRaster : Prop :=
  ∀ (s : State) (tx ty : BitVec 32), s.cmdReady = true → s.state = .isOpen →
    s.env.xlateAnswer s.fidx = some (tx, ty) → PixelsAnswered { s with tx := tx, ty := ty } →
    ∃ t, exec .rast s = .next t ∧
      t = { s with tx := tx, ty := ty, pix := BitVec.ofNat 32 s.pixels, raster := t.raster, state := .rastered,
                   env := { s.env with trace :=
                     (frameQueries { s with tx := tx, ty := ty }).reverse ++ .xlate s.fidx :: s.env.trace } } ∧
      (∀ i, i < s.pixels → t.raster[i]? = pixelSymbol { s with tx := tx, ty := ty } (i % s.w.toNat) (i / s.w.toNat)) ∧
      (∀ i, s.pixels ≤ i → t.raster[i]? = s.raster[i]?)

/-- R144: the number of cell queries of a frame is the number of columns inside cells times the number of such rows. -/
def Obligations.CellQueriesAreColumnsTimesRows : Prop :=
  ∀ s : State, (frameQueries s).length =
    ((List.range s.w.toNat).filter fun x => decide ¬ fmod (x + s.tx.toInt) s.p.toNat < s.grid.toNat).length *
    ((List.range s.h.toNat).filter fun y => decide ¬ fmod (y + s.ty.toInt) s.p.toNat < s.grid.toNat).length

/-- R146: with translation (0, 0) the gridlines are exactly the columns and rows with remainder below GRID, every other
pixel asks the cell of the grid that it lies in, and every cell of the grid is asked by each of its CELL by CELL pixels,
all of them on the canvas. -/
def Obligations.ZeroTranslationCoversTheGrid : Prop :=
  ∀ s : State, CanvasOk s → s.tx = 0 → s.ty = 0 →
    (∀ x y : Nat, x < s.w.toNat → y < s.h.toNat →
      if x % s.p.toNat < s.grid.toNat ∨ y % s.p.toNat < s.grid.toNat then pixelKind s x y = .gridline
      else pixelKind s x y = .inCell ↑(x / s.p.toNat) ↑(y / s.p.toNat) ∧
        x / s.p.toNat < s.cols.toNat ∧ y / s.p.toNat < s.rows.toNat) ∧
    (∀ col row dx dy : Nat, col < s.cols.toNat → row < s.rows.toNat → dx < s.cell.toNat → dy < s.cell.toNat →
      let x := col * s.p.toNat + s.grid.toNat + dx
      let y := row * s.p.toNat + s.grid.toNat + dy
      x < s.w.toNat ∧ y < s.h.toNat ∧ pixelKind s x y = .inCell ↑col ↑row)

/-! ### ENC and the LZW unit (41_lzw_encoder, 10_state R39, 30_encoding R95, R96) -/

/-- ENC (R160): on a raster of at least one pixel it completes, writing the code stream packed as 30_encoding R96 says
and cut into sub-blocks; it makes no request and writes nothing else. PIX ends at W*H (assumption 17). -/
def Obligations.EncWritesThePackedCodeStream : Prop :=
  ∀ s : State, s.cmdReady = true → s.state = .rastered → 1 ≤ s.pixels →
    ∃ t, exec .enc s = .next t ∧
      t = { s with lzw := t.lzw, pix := BitVec.ofNat 32 s.pixels, lzwb := t.lzwb, state := .encoded } ∧
      t.lzwb = chunk (packCodes (codeStream (rasterCells s.pixels 0 s.raster)))

/-- R172: a symbol above 3 and an empty raster are contract violations, raised with INFO = PIX. -/
def Obligations.ContractViolationsAreDetected : Prop :=
  (∀ (sym : Nat) (l : Lzw), lzwSym sym l = none ↔ 3 < sym) ∧
  (∀ l : Lzw, lzwFin l = none ↔ l.curv = false) ∧
  (∀ s : State, s.cmdReady = true → s.state = .rastered → s.pixels = 0 →
    ∃ t, exec .enc s = .next t ∧ t.state = .fault ∧ t.cause = .contract ∧ t.info = 0 ∧ t.pix = 0 ∧ t.lzwb = s.lzwb)

/-- 60_exceptions R264: no state that satisfies the reachable invariant raises CONTRACT. -/
def Obligations.ContractIsUnreachable : Prop :=
  ∀ (i : Instr) (s t : State), Inv s → exec i s = .next t → s.cause ≠ .contract → t.cause ≠ .contract

/-- 10_state R39: LZW.INIT establishes the invariants of the LZW registers and every LZW.SYM keeps them. -/
def Obligations.LzwSymKeepsTheRegisterInvariants : Prop :=
  (∀ l : Lzw, LzwInv (lzwInit l)) ∧
  (∀ (l : Lzw) (sym : Nat), LzwInv l → sym ≤ 3 → ∃ l', lzwSym sym l = some l' ∧ LzwInv l')

/-- R166, R163: LZW.EMIT on registers in their ranges adds the code's bits above the bits already packed, as numbers
(R167, 20_memory R66), and leaves fewer than 8 bits in the accumulator. -/
def Obligations.EmitAddsTheCodesBits : Prop :=
  ∀ (l : Lzw) (c : Code), l.nb.toNat ≤ 7 → l.acc.toNat < 2 ^ l.nb.toNat → l.cw.toNat ≤ 12 → c.toNat < 2 ^ l.cw.toNat →
    let l' := lzwEmit c l
    bytesNumber l'.payload + 256 ^ l'.payload.length * l'.acc.toNat =
      bytesNumber l.payload + 256 ^ l.payload.length * (l.acc.toNat + c.toNat * 2 ^ l.nb.toNat) ∧
    8 * l'.payload.length + l'.nb.toNat = 8 * l.payload.length + l.nb.toNat + l.cw.toNat ∧
    l'.nb.toNat ≤ 7 ∧ l'.acc.toNat < 2 ^ l'.nb.toNat

/-- 30_encoding R95: code number k of an epoch, the clear code not counted, has width bitlen(k + 4); a clear code
follows exactly a full epoch of 4091 codes, with 12 bits. -/
def Obligations.CodeWidthFollowsItsNumber : Prop :=
  ∀ (raster : List Symbol) (j : Nat) (c : Code) (width : Nat), (codeStream raster)[j]? = some (c, width) →
    let before := sinceClear ((codeStream raster).take j)
    (c = 4 ∧ before = 4091 ∧ width = 12) ∨ (c ≠ 4 ∧ before < 4091 ∧ width = bitlen (before + 1 + 4))

/-- R169: no end-of-information code is ever sent; 30_encoding R108 and 10_state R32, R39 (3): every code fits a width of
3 to 12 bits. -/
def Obligations.NoCodeIsEoiAndEveryCodeFits : Prop :=
  ∀ (raster : List Symbol) (c : Code) (width : Nat), (c, width) ∈ codeStream raster →
    c ≠ 5 ∧ 3 ≤ width ∧ width ≤ 12 ∧ c.toNat < 2 ^ width

/-- R175 at the level of codes: the matching decoder, which demands each code at the width it expects, gives back every
raster. -/
def Obligations.CodeStreamDecodesToTheRaster : Prop :=
  ∀ raster : List Symbol, raster ≠ [] → readCodes (codeStream raster) Reader.start = some raster

/-- R175, the round-trip law: the matching decoder gives back, from the LZWB an ENC leaves, exactly the raster. -/
def Obligations.EncodedFrameDecodesToTheRaster : Prop :=
  ∀ s : State, s.cmdReady = true → s.state = .rastered → 1 ≤ s.pixels →
    ∃ t, exec .enc s = .next t ∧ readLzwb s.pixels t.lzwb = some (rasterCells s.pixels 0 s.raster)

/-- R174: LZWB depends on the raster alone. -/
def Obligations.LzwbDependsOnTheRasterAlone : Prop :=
  ∀ s s' t t' : State, s.cmdReady = true → s'.cmdReady = true → s.state = .rastered → s'.state = .rastered →
    1 ≤ s.pixels → rasterCells s.pixels 0 s.raster = rasterCells s'.pixels 0 s'.raster →
    exec .enc s = .next t → exec .enc s' = .next t' → t.lzwb = t'.lzwb

/-- R171, 30_encoding R97: the length of LZWB, and a reader that walks the sub-blocks gets the payload and what follows. -/
def Obligations.ChunkReadsBack : Prop :=
  ∀ payload rest : List Byte,
    (chunk payload).length = payload.length + (payload.length + 254) / 255 + 1 ∧
    readBlocks (chunk payload).length (chunk payload ++ rest) = some (payload, rest)

/-- LIT, CLEAR and DICT run by themselves (the model's own, assumptions 7 and 14) on an accumulator in its range: the code's
bits are packed (R167), and only the clear code also resets the table and the width (R165). -/
def Obligations.CodesAreSentInTheCurrentWidth : Prop :=
  ∀ (i : Instr) (c : Code) (s : State), encode i = .code c → i ≠ .eoi → s.stopped = false →
    s.lzw.nb.toNat ≤ 7 → s.lzw.acc.toNat < 2 ^ s.lzw.nb.toNat →
    ∃ l, exec i s = .next { s with lzw := l } ∧
      bytesNumber l.payload + 256 ^ l.payload.length * l.acc.toNat =
        bytesNumber s.lzw.payload + 256 ^ s.lzw.payload.length * (s.lzw.acc.toNat + c.toNat * 2 ^ s.lzw.nb.toNat) ∧
      8 * l.payload.length + l.nb.toNat = 8 * s.lzw.payload.length + s.lzw.nb.toNat + s.lzw.cw.toNat ∧
      l.cur = s.lzw.cur ∧ l.curv = s.lzw.curv ∧
      (if i = .clear then l.ct = [] ∧ l.next = 6 ∧ l.cw = 3 else l.ct = s.lzw.ct ∧ l.next = s.lzw.next ∧ l.cw = s.lzw.cw)

/-- R169: EOI never runs (assumption 13). Every other instruction has a next state in every state: an exception is a next
state, and no instruction faults or is refused. That this holds in every state is the model's form: an unanswered request
is a next state by assumption 4 (70_reset R294 gives such a core no step), a code or record runs by itself by assumption
7, and a byte not accepted, or a code or record in a stopped core, answers the same state by assumption 15. -/
def Obligations.OnlyEoiNeverRuns : Prop :=
  (∀ s : State, exec .eoi s = .refused .eoiNeverEmitted) ∧
  (∀ (i : Instr) (s : State), i ≠ .eoi → ∃ t, exec i s = .next t)

/-! ### The macros (43_sequencer R234, R235; 30_encoding R110) -/

/-- FRAME is exactly RAST, ENC, WFRM issued one after another, whatever the surroundings answer (R234). The whole states
are equal, the model's trace (assumption 24) among them: that all cell queries precede the frame's bytes, and which
queries are made before a refused byte, is the choice of assumption 27, since R234 and 20_memory R71 (5) let an
implementation stream. -/
def Obligations.FrameIsRastEncWfrm : Prop :=
  ∀ s : State, s.cmdReady = true → s.state = .isOpen →
    ∃ t, exec .frame s = .next t ∧ issue [.rast, .enc, .wfrm] s = some t

/-- RUN is exactly its expansion issued command by command, whatever the surroundings answer (30_encoding R110, R235). The
whole states are equal, the model's trace (assumption 24) among them: the order of a frame's cell queries against its
bytes, and which queries are made before a fault inside a frame, are the choice of assumption 27, since 20_memory R71 (5)
lets an implementation stream. -/
def Obligations.RunIsItsExpansion : Prop :=
  ∀ s : State, s.cmdReady = true → s.state = .idle → s.fidx = 0 →
    ∃ t, exec .run s = .next t ∧ issue (runExpansion s.env.pins.frames.toNat) s = some t

/-- FRAME completes when its requests are answered: the frame of the pixels' symbols is appended and FIDX counts it. -/
def Obligations.FrameAppendsOneFrame : Prop :=
  ∀ (s : State) (tx ty : BitVec 32), s.cmdReady = true → s.state = .isOpen → 1 ≤ s.pixels →
    s.env.xlateAnswer s.fidx = some (tx, ty) → PixelsAnswered { s with tx := tx, ty := ty } → s.env.takesAll →
    ∃ (t : State) (symbols : List Symbol), exec .frame s = .next t ∧ t.state = .isOpen ∧ t.busy = false ∧
      t.fidx = s.fidx + 1 ∧ symbols.length = s.pixels ∧
      (∀ i, i < s.pixels → symbols[i]? = pixelSymbol { s with tx := tx, ty := ty } (i % s.w.toNat) (i / s.w.toNat)) ∧
      t.lzwb = chunk (packCodes (codeStream symbols)) ∧ t.out = s.out ++ frameBytes s.pause s.w s.h t.lzwb

/-- RUN completes when its requests are answered (R235): CLOSED with DONE, and a complete file of FRAMES frames. Seen at
the ports, but for the cell queries, are in this order: the open request and the header's bytes; for each frame its
translation request and its bytes, with exactly one advance of one step between two frames; the trailer and the release. -/
def Obligations.RunWritesACompleteFile : Prop :=
  ∀ s : State, s.cmdReady = true → s.state = .idle → s.fidx = 0 →
    dimOk (canvasDim (latchConfig s).p s.env.pins.cols s.env.pins.grid) = true →
    dimOk (canvasDim (latchConfig s).p s.env.pins.rows s.env.pins.grid) = true → s.env.pins.frames ≠ 0 →
    s.env.openAnswer = .ok → s.env.takesAll → RunAnswered s →
    ∃ (t : State) (frames : List (List Byte)), exec .run s = .next t ∧ t.state = .closed ∧ t.done = true ∧
      t.opened = false ∧ t.busy = false ∧ t.fidx = s.env.pins.frames ∧ frames.length = s.env.pins.frames.toNat ∧
      (∀ f ∈ frames, IsFrame s.env.pins.pause t.w t.h f) ∧
      t.out = s.out ++ headerBytes s.params t.w t.h ++ frames.flatten ++ trailerBytes ∧
      t.env.steps = s.env.steps + (s.env.pins.frames.toNat - 1) ∧
      withoutCells t.env.trace =
        .release :: putCalls trailerBytes ++ (frameCalls 0 frames).reverse ++ putCalls (headerBytes s.params t.w t.h) ++
          .openSink .ok :: withoutCells s.env.trace

/-! ### Frames: what an instruction leaves unchanged -/

/-- CFG, ADV and the reserved bytes, in every next state: only the registers listed can differ (R231, R232, R233). -/
def Obligations.CfgAdvAndReservedWriteOnlyTheirRegisters : Prop :=
  ∀ s t : State,
    (exec .cfg s = .next t →
      t = { s with frames := t.frames, pause := t.pause, cell := t.cell, grid := t.grid, cols := t.cols, rows := t.rows,
                   p := t.p, w := t.w, h := t.h, state := t.state, fault := t.fault, cause := t.cause, info := t.info,
                   opened := t.opened, env := { s.env with trace := t.env.trace } }) ∧
    (exec .adv s = .next t →
      t = { s with state := t.state, busy := t.busy, fault := t.fault, cause := t.cause, info := t.info,
                   opened := t.opened, waiting := t.waiting,
                   env := { s.env with trace := t.env.trace, steps := t.env.steps } }) ∧
    (∀ r p : BitVec 4, exec (.reserved r p) s = .next t →
      t = { s with state := t.state, fault := t.fault, cause := t.cause, info := t.info, opened := t.opened,
                   env := { s.env with trace := t.env.trace } })

/-- RAST and ENC, in every next state: RAST writes no register of the LZW unit, LZWB or OUT and no RASTER cell past the
frame; ENC writes no RASTER cell and no OUT (R143, R160). -/
def Obligations.RastAndEncWriteOnlyTheirRegisters : Prop :=
  ∀ s t : State,
    (exec .rast s = .next t →
      t = { s with pix := t.pix, tx := t.tx, ty := t.ty, raster := t.raster, state := t.state, busy := t.busy,
                   fault := t.fault, cause := t.cause, info := t.info, opened := t.opened, waiting := t.waiting,
                   env := { s.env with trace := t.env.trace } } ∧
      ∀ i, s.pixels ≤ i → t.raster[i]? = s.raster[i]?) ∧
    (exec .enc s = .next t →
      t = { s with pix := t.pix, lzw := t.lzw, lzwb := t.lzwb, state := t.state, fault := t.fault, cause := t.cause,
                   info := t.info, opened := t.opened, env := { s.env with trace := t.env.trace } })

/-- HDR, WFRM and CLOSE, in every next state: no parameter, raster, LZW register or LZWB changes; FIDX only by WFRM and
DONE only by CLOSE (R202 to R204). -/
def Obligations.WriterCommandsWriteOnlyTheirRegisters : Prop :=
  ∀ (i : Instr) (s t : State), (i = .hdr ∨ i = .wfrm ∨ i = .close) → exec i s = .next t →
    t = { s with fidx := t.fidx, state := t.state, busy := t.busy, done := t.done, fault := t.fault, cause := t.cause,
                 info := t.info, outcnt := t.outcnt, opened := t.opened, out := t.out, waiting := t.waiting,
                 env := { s.env with trace := t.env.trace } } ∧
    (i ≠ .wfrm → t.fidx = s.fidx) ∧ (i ≠ .close → t.done = s.done) ∧ s.out <+: t.out

/-- FRAME and RUN, in every next state: FRAME writes no parameter register, no DONE and no collaborator step; neither
touches the micro-operation slot, the surroundings' answers, or a RASTER cell past the frame (R234, R235). -/
def Obligations.MacrosWriteOnlyTheirRegisters : Prop :=
  ∀ s t : State,
    (exec .frame s = .next t →
      t = { s with fidx := t.fidx, pix := t.pix, tx := t.tx, ty := t.ty, state := t.state, busy := t.busy,
                   fault := t.fault, cause := t.cause, info := t.info, outcnt := t.outcnt, opened := t.opened,
                   lzw := t.lzw, raster := t.raster, lzwb := t.lzwb, out := t.out, waiting := t.waiting,
                   env := { s.env with trace := t.env.trace } } ∧
      ∀ i, s.pixels ≤ i → t.raster[i]? = s.raster[i]?) ∧
    (exec .run s = .next t →
      t = { t with params := s.params, slot := s.slot,
                   env := { s.env with trace := t.env.trace, steps := t.env.steps } } ∧
      ∀ i, t.pixels ≤ i → t.raster[i]? = s.raster[i]?)

/-- The code and record rows, in every next state: a code writes the LZW registers only, a record OUT, OUTCNT and what
a fault or a wait writes. That they run by themselves, a code also above the width and a record also without a held sink,
is the model's own (assumptions 7, 14 and 18). -/
def Obligations.CodesAndRecordsWriteOnlyTheirRegisters : Prop :=
  ∀ (i : Instr) (s t : State), exec i s = .next t →
    (∀ c : Code, encode i = .code c →
      t = { s with lzw := { t.lzw with cur := s.lzw.cur, curv := s.lzw.curv } } ∧
      (i ≠ .clear → t.lzw.ct = s.lzw.ct ∧ t.lzw.next = s.lzw.next ∧ t.lzw.cw = s.lzw.cw)) ∧
    (∀ bytes : List Byte, rowBytes i = some bytes →
      t = { s with out := t.out, outcnt := t.outcnt, state := t.state, busy := t.busy, fault := t.fault,
                   cause := t.cause, info := t.info, opened := t.opened, waiting := t.waiting,
                   env := { s.env with trace := t.env.trace } } ∧ s.out <+: t.out)
end

