-- ==== Sys2Proof/Laws/Encoder.lean ====
section
/-! SUPPORT. The small lemmas of the LZW micro-operations: what each leaves in each register, and LZW.SYM said once. -/

namespace Sys2Proof.Laws

open Sys2Proof.Machine

section Emit

variable (c : Code) (l : Lzw)

@[simp] theorem lzwEmit_curv : (lzwEmit c l).curv = l.curv := rfl
@[simp] theorem lzwEmit_cur : (lzwEmit c l).cur = l.cur := rfl
@[simp] theorem lzwEmit_next : (lzwEmit c l).next = l.next := rfl
@[simp] theorem lzwEmit_cw : (lzwEmit c l).cw = l.cw := rfl

end Emit

section Init

variable (l : Lzw)

@[simp] theorem lzwInit_curv : (lzwInit l).curv = false := rfl
@[simp] theorem lzwInit_cur : (lzwInit l).cur = l.cur := rfl
@[simp] theorem lzwInit_next : (lzwInit l).next = 6 := rfl
@[simp] theorem lzwInit_cw : (lzwInit l).cw = 3 := rfl
@[simp] theorem lzwInit_acc : (lzwInit l).acc = 0 := rfl
@[simp] theorem lzwInit_nb : (lzwInit l).nb = 0 := rfl
@[simp] theorem lzwInit_ct : (lzwInit l).ct = [] := rfl
@[simp] theorem lzwInit_payload : (lzwInit l).payload = [] := rfl

end Init

/-- The loop of LZW.EMIT appends one byte a turn. -/
@[simp] theorem drainBytes_length (k acc : Nat) : (drainBytes k acc).length = k := by
  induction k generalizing acc with
  | zero => rfl
  | succ k ih => simp [drainBytes, ih]

/-- What the drained bytes hold as a number: the low bits of the accumulator (20_memory R66). -/
theorem bytesNumber_drainBytes (k acc : Nat) : bytesNumber (drainBytes k acc) = acc % 256 ^ k := by
  induction k generalizing acc with
  | zero => simp [drainBytes, bytesNumber, Nat.mod_one]
  | succ k ih =>
    simp only [drainBytes, bytesNumber, ih, BitVec.toNat_ofNat]
    rw [show (256 : Nat) ^ (k + 1) = 256 * 256 ^ k from Nat.pow_succ', Nat.mod_mul]

/-- A byte sequence as a number, in two parts. -/
theorem bytesNumber_append (a b : List Byte) :
    bytesNumber (a ++ b) = bytesNumber a + 256 ^ a.length * bytesNumber b := by
  induction a with
  | nil => simp [bytesNumber]
  | cons x a ih => simp only [List.cons_append, bytesNumber, ih, List.length_cons, pow_succ]; ring

/-- LZW.SYM, said once (41_lzw R162, R163): a contract violation, a first symbol, a hit, or a miss. -/
theorem lzwSym_cases (sym : Nat) (l : Lzw) :
    (3 < sym ∧ lzwSym sym l = none) ∨
    (sym ≤ 3 ∧ l.curv = false ∧ symSends sym l = [] ∧
      lzwSym sym l = some { l with cur := BitVec.ofNat 12 sym, curv := true }) ∨
    (sym ≤ 3 ∧ l.curv = true ∧ symSends sym l = [] ∧ ∃ c, Memory.read l.ct (ctAddress l.cur sym) = some c ∧
      lzwSym sym l = some { l with cur := c }) ∨
    (sym ≤ 3 ∧ l.curv = true ∧ Memory.read l.ct (ctAddress l.cur sym) = none ∧
      symSends sym l = (l.cur, l.cw.toNat) :: (if l.next = 4096 then [(4, l.cw.toNat)] else []) ∧
      lzwSym sym l = some (lzwMiss sym l)) := by
  by_cases h : 3 < sym
  · exact .inl ⟨h, by simp [lzwSym, h]⟩
  · have h3 : sym ≤ 3 := by omega
    cases hv : l.curv with
    | false => exact .inr (.inl ⟨h3, rfl, by simp [symSends, hv], by simp [lzwSym, h, hv]⟩)
    | true =>
      cases hr : Memory.read l.ct (ctAddress l.cur sym) with
      | some c =>
        exact .inr (.inr (.inl ⟨h3, rfl, by simp [symSends, hv, hr], c, rfl, by simp [lzwSym, h, hv, hr]⟩))
      | none => exact .inr (.inr (.inr ⟨h3, rfl, rfl, by simp [symSends, hv, hr], by simp [lzwSym, h, hv, hr]⟩))

/-- A symbol of RASTER is never above 3: the check of LZW.SYM cannot fire (41_lzw R172). -/
theorem symbol_le_three (sym : Symbol) : sym.toNat ≤ 3 := by
  have := sym.isLt
  omega

end Sys2Proof.Laws
end

