-- ==== Sys2Proof/Laws/State.lean ====
section
/-! SUPPORT. What each named update of the state leaves in each field: one lemma per field and update, so that no later
proof unfolds the update. -/

namespace Sys2Proof.Laws

open Sys2Proof.Machine

section Log

variable (s : State) (c : PortCall)

@[simp] theorem log_frames : (s.log c).frames = s.frames := rfl
@[simp] theorem log_pause : (s.log c).pause = s.pause := rfl
@[simp] theorem log_cell : (s.log c).cell = s.cell := rfl
@[simp] theorem log_grid : (s.log c).grid = s.grid := rfl
@[simp] theorem log_cols : (s.log c).cols = s.cols := rfl
@[simp] theorem log_rows : (s.log c).rows = s.rows := rfl
@[simp] theorem log_p : (s.log c).p = s.p := rfl
@[simp] theorem log_w : (s.log c).w = s.w := rfl
@[simp] theorem log_h : (s.log c).h = s.h := rfl
@[simp] theorem log_state : (s.log c).state = s.state := rfl
@[simp] theorem log_fidx : (s.log c).fidx = s.fidx := rfl
@[simp] theorem log_pix : (s.log c).pix = s.pix := rfl
@[simp] theorem log_tx : (s.log c).tx = s.tx := rfl
@[simp] theorem log_ty : (s.log c).ty = s.ty := rfl
@[simp] theorem log_busy : (s.log c).busy = s.busy := rfl
@[simp] theorem log_done : (s.log c).done = s.done := rfl
@[simp] theorem log_fault : (s.log c).fault = s.fault := rfl
@[simp] theorem log_cause : (s.log c).cause = s.cause := rfl
@[simp] theorem log_info : (s.log c).info = s.info := rfl
@[simp] theorem log_outcnt : (s.log c).outcnt = s.outcnt := rfl
@[simp] theorem log_opened : (s.log c).opened = s.opened := rfl
@[simp] theorem log_lzw : (s.log c).lzw = s.lzw := rfl
@[simp] theorem log_raster : (s.log c).raster = s.raster := rfl
@[simp] theorem log_lzwb : (s.log c).lzwb = s.lzwb := rfl
@[simp] theorem log_out : (s.log c).out = s.out := rfl
@[simp] theorem log_params : (s.log c).params = s.params := rfl
@[simp] theorem log_waiting : (s.log c).waiting = s.waiting := rfl
@[simp] theorem log_slot : (s.log c).slot = s.slot := rfl
@[simp] theorem log_env_script : (s.log c).env.script = s.env.script := rfl
@[simp] theorem log_env_pins : (s.log c).env.pins = s.env.pins := rfl
@[simp] theorem log_env_xlates : (s.log c).env.xlates = s.env.xlates := rfl
@[simp] theorem log_env_cells : (s.log c).env.cells = s.env.cells := rfl
@[simp] theorem log_env_advances : (s.log c).env.advances = s.env.advances := rfl
@[simp] theorem log_env_openPlan : (s.log c).env.openPlan = s.env.openPlan := rfl
@[simp] theorem log_env_sinkPlan : (s.log c).env.sinkPlan = s.env.sinkPlan := rfl
@[simp] theorem log_env_steps : (s.log c).env.steps = s.env.steps := rfl
@[simp] theorem log_env_trace : (s.log c).env.trace = c :: s.env.trace := rfl

end Log

section Wait

variable (s : State) (port : Port)

@[simp] theorem wait_frames : (s.wait port).frames = s.frames := rfl
@[simp] theorem wait_pause : (s.wait port).pause = s.pause := rfl
@[simp] theorem wait_cell : (s.wait port).cell = s.cell := rfl
@[simp] theorem wait_grid : (s.wait port).grid = s.grid := rfl
@[simp] theorem wait_cols : (s.wait port).cols = s.cols := rfl
@[simp] theorem wait_rows : (s.wait port).rows = s.rows := rfl
@[simp] theorem wait_p : (s.wait port).p = s.p := rfl
@[simp] theorem wait_w : (s.wait port).w = s.w := rfl
@[simp] theorem wait_h : (s.wait port).h = s.h := rfl
@[simp] theorem wait_state : (s.wait port).state = s.state := rfl
@[simp] theorem wait_fidx : (s.wait port).fidx = s.fidx := rfl
@[simp] theorem wait_pix : (s.wait port).pix = s.pix := rfl
@[simp] theorem wait_tx : (s.wait port).tx = s.tx := rfl
@[simp] theorem wait_ty : (s.wait port).ty = s.ty := rfl
@[simp] theorem wait_busy : (s.wait port).busy = true := rfl
@[simp] theorem wait_done : (s.wait port).done = s.done := rfl
@[simp] theorem wait_fault : (s.wait port).fault = s.fault := rfl
@[simp] theorem wait_cause : (s.wait port).cause = s.cause := rfl
@[simp] theorem wait_info : (s.wait port).info = s.info := rfl
@[simp] theorem wait_outcnt : (s.wait port).outcnt = s.outcnt := rfl
@[simp] theorem wait_opened : (s.wait port).opened = s.opened := rfl
@[simp] theorem wait_lzw : (s.wait port).lzw = s.lzw := rfl
@[simp] theorem wait_raster : (s.wait port).raster = s.raster := rfl
@[simp] theorem wait_lzwb : (s.wait port).lzwb = s.lzwb := rfl
@[simp] theorem wait_out : (s.wait port).out = s.out := rfl
@[simp] theorem wait_params : (s.wait port).params = s.params := rfl
@[simp] theorem wait_env : (s.wait port).env = s.env := rfl
@[simp] theorem wait_waiting : (s.wait port).waiting = some port := rfl
@[simp] theorem wait_slot : (s.wait port).slot = s.slot := rfl

end Wait

/-- Release in one line: OPENED falls, and the pulse is seen only if the sink was held (42_gif_writer R205). -/
theorem release_eq (s : State) :
    s.release = { s with opened := false, env := { s.env with trace := if s.opened then .release :: s.env.trace else s.env.trace } } := by
  unfold State.release
  split
  next => simp
  next h =>
    cases s
    simp_all

section Release

variable (s : State)

@[simp] theorem release_frames : s.release.frames = s.frames := by rw [release_eq]
@[simp] theorem release_pause : s.release.pause = s.pause := by rw [release_eq]
@[simp] theorem release_cell : s.release.cell = s.cell := by rw [release_eq]
@[simp] theorem release_grid : s.release.grid = s.grid := by rw [release_eq]
@[simp] theorem release_cols : s.release.cols = s.cols := by rw [release_eq]
@[simp] theorem release_rows : s.release.rows = s.rows := by rw [release_eq]
@[simp] theorem release_p : s.release.p = s.p := by rw [release_eq]
@[simp] theorem release_w : s.release.w = s.w := by rw [release_eq]
@[simp] theorem release_h : s.release.h = s.h := by rw [release_eq]
@[simp] theorem release_state : s.release.state = s.state := by rw [release_eq]
@[simp] theorem release_fidx : s.release.fidx = s.fidx := by rw [release_eq]
@[simp] theorem release_pix : s.release.pix = s.pix := by rw [release_eq]
@[simp] theorem release_tx : s.release.tx = s.tx := by rw [release_eq]
@[simp] theorem release_ty : s.release.ty = s.ty := by rw [release_eq]
@[simp] theorem release_busy : s.release.busy = s.busy := by rw [release_eq]
@[simp] theorem release_done : s.release.done = s.done := by rw [release_eq]
@[simp] theorem release_fault : s.release.fault = s.fault := by rw [release_eq]
@[simp] theorem release_cause : s.release.cause = s.cause := by rw [release_eq]
@[simp] theorem release_info : s.release.info = s.info := by rw [release_eq]
@[simp] theorem release_outcnt : s.release.outcnt = s.outcnt := by rw [release_eq]
@[simp] theorem release_opened : s.release.opened = false := by rw [release_eq]
@[simp] theorem release_lzw : s.release.lzw = s.lzw := by rw [release_eq]
@[simp] theorem release_raster : s.release.raster = s.raster := by rw [release_eq]
@[simp] theorem release_lzwb : s.release.lzwb = s.lzwb := by rw [release_eq]
@[simp] theorem release_out : s.release.out = s.out := by rw [release_eq]
@[simp] theorem release_params : s.release.params = s.params := by rw [release_eq]
@[simp] theorem release_waiting : s.release.waiting = s.waiting := by rw [release_eq]
@[simp] theorem release_slot : s.release.slot = s.slot := by rw [release_eq]
@[simp] theorem release_env_script : s.release.env.script = s.env.script := by rw [release_eq]
@[simp] theorem release_env_pins : s.release.env.pins = s.env.pins := by rw [release_eq]
@[simp] theorem release_env_xlates : s.release.env.xlates = s.env.xlates := by rw [release_eq]
@[simp] theorem release_env_cells : s.release.env.cells = s.env.cells := by rw [release_eq]
@[simp] theorem release_env_advances : s.release.env.advances = s.env.advances := by rw [release_eq]
@[simp] theorem release_env_openPlan : s.release.env.openPlan = s.env.openPlan := by rw [release_eq]
@[simp] theorem release_env_sinkPlan : s.release.env.sinkPlan = s.env.sinkPlan := by rw [release_eq]
@[simp] theorem release_env_steps : s.release.env.steps = s.env.steps := by rw [release_eq]
@[simp] theorem release_env_trace :
    s.release.env.trace = if s.opened then .release :: s.env.trace else s.env.trace := by rw [release_eq]

end Release

section Raise

variable (s : State) (cause : Cause) (info : BitVec 64)

@[simp] theorem raise_frames : (s.raise cause info).frames = s.frames := by simp [State.raise]
@[simp] theorem raise_pause : (s.raise cause info).pause = s.pause := by simp [State.raise]
@[simp] theorem raise_cell : (s.raise cause info).cell = s.cell := by simp [State.raise]
@[simp] theorem raise_grid : (s.raise cause info).grid = s.grid := by simp [State.raise]
@[simp] theorem raise_cols : (s.raise cause info).cols = s.cols := by simp [State.raise]
@[simp] theorem raise_rows : (s.raise cause info).rows = s.rows := by simp [State.raise]
@[simp] theorem raise_p : (s.raise cause info).p = s.p := by simp [State.raise]
@[simp] theorem raise_w : (s.raise cause info).w = s.w := by simp [State.raise]
@[simp] theorem raise_h : (s.raise cause info).h = s.h := by simp [State.raise]
@[simp] theorem raise_state : (s.raise cause info).state = .fault := rfl
@[simp] theorem raise_fidx : (s.raise cause info).fidx = s.fidx := by simp [State.raise]
@[simp] theorem raise_pix : (s.raise cause info).pix = s.pix := by simp [State.raise]
@[simp] theorem raise_tx : (s.raise cause info).tx = s.tx := by simp [State.raise]
@[simp] theorem raise_ty : (s.raise cause info).ty = s.ty := by simp [State.raise]
@[simp] theorem raise_busy : (s.raise cause info).busy = false := rfl
@[simp] theorem raise_done : (s.raise cause info).done = s.done := by simp [State.raise]
@[simp] theorem raise_fault : (s.raise cause info).fault = true := rfl
@[simp] theorem raise_cause : (s.raise cause info).cause = cause := by simp [State.raise]
@[simp] theorem raise_info : (s.raise cause info).info = info := by simp [State.raise]
@[simp] theorem raise_outcnt : (s.raise cause info).outcnt = s.outcnt := by simp [State.raise]
@[simp] theorem raise_opened : (s.raise cause info).opened = false := by simp [State.raise]
@[simp] theorem raise_lzw : (s.raise cause info).lzw = s.lzw := by simp [State.raise]
@[simp] theorem raise_raster : (s.raise cause info).raster = s.raster := by simp [State.raise]
@[simp] theorem raise_lzwb : (s.raise cause info).lzwb = s.lzwb := by simp [State.raise]
@[simp] theorem raise_out : (s.raise cause info).out = s.out := by simp [State.raise]
@[simp] theorem raise_params : (s.raise cause info).params = s.params := by simp [State.raise]
@[simp] theorem raise_waiting : (s.raise cause info).waiting = s.waiting := by simp [State.raise]
@[simp] theorem raise_slot : (s.raise cause info).slot = s.slot := by simp [State.raise]
@[simp] theorem raise_env_script : (s.raise cause info).env.script = s.env.script := by simp [State.raise]
@[simp] theorem raise_env_pins : (s.raise cause info).env.pins = s.env.pins := by simp [State.raise]
@[simp] theorem raise_env_xlates : (s.raise cause info).env.xlates = s.env.xlates := by simp [State.raise]
@[simp] theorem raise_env_cells : (s.raise cause info).env.cells = s.env.cells := by simp [State.raise]
@[simp] theorem raise_env_advances : (s.raise cause info).env.advances = s.env.advances := by simp [State.raise]
@[simp] theorem raise_env_openPlan : (s.raise cause info).env.openPlan = s.env.openPlan := by simp [State.raise]
@[simp] theorem raise_env_sinkPlan : (s.raise cause info).env.sinkPlan = s.env.sinkPlan := by simp [State.raise]
@[simp] theorem raise_env_steps : (s.raise cause info).env.steps = s.env.steps := by simp [State.raise]
@[simp] theorem raise_env_trace :
    (s.raise cause info).env.trace = if s.opened then .release :: s.env.trace else s.env.trace := by simp [State.raise]

end Raise

end Sys2Proof.Laws
end

