-- ==== Sys2Proof/Laws/Ops.lean ====
section
/-! SUPPORT. Everything each shared operation can do, said once: the inversion lemmas that later proofs cite instead of
unfolding the operation. -/

namespace Sys2Proof.Laws

open Sys2Proof.Machine

/-! ### Sequencing -/

@[simp] theorem andThen_go (s : State) (k : State → Flow) : (Flow.go s).andThen k = k s := rfl

@[simp] theorem andThen_halt (s : State) (k : State → Flow) : (Flow.halt s).andThen k = .halt s := rfl

/-- A sequence goes on exactly if both parts do. -/
theorem andThen_eq_go {f : Flow} {k : State → Flow} {t : State} :
    f.andThen k = .go t ↔ ∃ s, f = .go s ∧ k s = .go t := by
  cases f <;> simp

/-- A sequence is over early exactly if one of its parts is. -/
theorem andThen_eq_halt {f : Flow} {k : State → Flow} {t : State} :
    f.andThen k = .halt t ↔ f = .halt t ∨ ∃ s, f = .go s ∧ k s = .halt t := by
  cases f <;> simp

theorem andThen_assoc (f : Flow) (k m : State → Flow) :
    (f.andThen k).andThen m = f.andThen fun s => (k s).andThen m := by
  cases f <;> rfl

/-! ### The sink -/

/-- The sink's next answer is the one at position 0. -/
theorem putAnswerAt_zero (e : Env) (held : Nat) : e.putAnswerAt held 0 = e.putAnswer held := by
  unfold Env.putAnswerAt Env.putAnswer
  cases e.sinkPlan <;> simp

/-- After one accepted byte the later answers move up by one. -/
theorem putAnswerAt_succ (s : State) (b : Byte) (a : SinkAnswer) (held k : Nat) :
    (s.log (.put b a)).env.putAnswerAt (held + 1) k = s.env.putAnswerAt held (k + 1) := by
  unfold Env.putAnswerAt
  simp only [log_env_sinkPlan, log_env_trace, List.length_cons]
  cases s.env.sinkPlan with
  | free => simp only [Nat.add_assoc, Nat.add_comm 1 k]
  | accepts count after => simp only [Nat.add_assoc, Nat.add_comm 1 k]

@[simp] theorem afterPuts_nil (s : State) : s.afterPuts [] = s := by
  simp [State.afterPuts, putCalls]

/-- Put of one byte and then of the rest is Put of all. -/
theorem afterPuts_cons (s : State) (b : Byte) (bs : List Byte) :
    s.afterPuts (b :: bs) = (s.afterPuts [b]).afterPuts bs := by
  simp only [State.afterPuts, putCalls, List.length_cons, List.length_nil, BitVec.ofNat_add, List.map_cons, List.map_nil,
    List.reverse_cons, List.reverse_nil, List.nil_append, List.append_assoc, List.cons_append, Nat.zero_add]
  congr 1
  ac_rfl

/-- Put(b), said once (42_gif_writer R200): accepted, refused, or never answered. -/
theorem putByte_cases (b : Byte) (s : State) :
    (s.env.putAnswer s.out.length = .ok ∧ putByte b s = .go (s.afterPuts [b])) ∨
    (s.env.putAnswer s.out.length = .error ∧
      putByte b s = .halt ((s.log (.put b .error)).raise .ioWrite s.outcnt)) ∨
    (s.env.putAnswer s.out.length = .never ∧ putByte b s = .halt ((s.log (.put b .never)).wait .output)) := by
  unfold putByte
  cases h : s.env.putAnswer s.out.length <;> simp [State.afterPuts, putCalls, State.log]

/-- The answers after an accepted byte. -/
theorem afterPuts_putAnswerAt (s : State) (b : Byte) (k : Nat) :
    (s.afterPuts [b]).env.putAnswerAt (s.afterPuts [b]).out.length k = s.env.putAnswerAt s.out.length (k + 1) := by
  have h := putAnswerAt_succ s b .ok s.out.length k
  simpa [State.afterPuts, putCalls, State.log] using h

/-- The sink takes one byte and then `n` more exactly if it takes `n + 1`. -/
theorem takes_succ (s : State) (b : Byte) (n : Nat) :
    s.env.takes s.out.length (n + 1) ↔ s.env.putAnswer s.out.length = .ok ∧
      (s.afterPuts [b]).env.takes (s.afterPuts [b]).out.length n := by
  unfold Env.takes
  constructor
  · intro h
    refine ⟨?_, fun k hk => ?_⟩
    · rw [← putAnswerAt_zero]; exact h 0 (by omega)
    · rw [afterPuts_putAnswerAt]; exact h (k + 1) (by omega)
  · rintro ⟨h0, h⟩ k hk
    cases k with
    | zero => rw [putAnswerAt_zero]; exact h0
    | succ k => rw [← afterPuts_putAnswerAt s b]; exact h k (by omega)

/-- Put of a sequence goes on exactly if the sink takes every byte, and then the bytes have joined OUT. -/
theorem putBytes_eq_go {bytes : List Byte} {s t : State} :
    putBytes bytes s = .go t ↔ s.env.takes s.out.length bytes.length ∧ t = s.afterPuts bytes := by
  induction bytes generalizing s with
  | nil =>
    simp only [putBytes, Flow.go.injEq, afterPuts_nil, List.length_nil]
    exact ⟨fun h => ⟨fun k hk => absurd hk (by omega), h.symm⟩, fun h => h.2.symm⟩
  | cons b bs ih =>
    rw [List.length_cons, takes_succ s b, afterPuts_cons s b bs]
    unfold putBytes
    rcases putByte_cases b s with ⟨ha, hp⟩ | ⟨ha, hp⟩ | ⟨ha, hp⟩
    · rw [hp, andThen_go, ih]
      simp [ha]
    · simp [hp, ha]
    · simp [hp, ha]

/-- Put of a sequence that the sink does not take whole: it takes the first `k` bytes, and the byte after them is
refused (IO_WRITE) or never answered. -/
theorem putBytes_eq_halt {bytes : List Byte} {s t : State} (h : putBytes bytes s = .halt t) :
    ∃ (k : Nat) (b : Byte), bytes[k]? = some b ∧ s.env.takes s.out.length k ∧
      ((s.env.putAnswerAt s.out.length k = .error ∧
          t = ((s.afterPuts (bytes.take k)).log (.put b .error)).raise .ioWrite (s.afterPuts (bytes.take k)).outcnt) ∨
       (s.env.putAnswerAt s.out.length k = .never ∧
          t = ((s.afterPuts (bytes.take k)).log (.put b .never)).wait .output)) := by
  induction bytes generalizing s with
  | nil => cases h
  | cons b bs ih =>
    unfold putBytes at h
    rcases putByte_cases b s with ⟨ha, hp⟩ | ⟨ha, hp⟩ | ⟨ha, hp⟩
    · rw [hp, andThen_go] at h
      obtain ⟨k, c, hc, ht, hcase⟩ := ih h
      refine ⟨k + 1, c, by simpa using hc, (takes_succ s b k).2 ⟨ha, ht⟩, ?_⟩
      rw [← afterPuts_putAnswerAt s b, List.take_succ_cons, afterPuts_cons s b (bs.take k)]
      exact hcase
    · rw [hp, andThen_halt] at h
      cases h
      exact ⟨0, b, rfl, fun k hk => absurd hk (by omega), .inl ⟨by rw [putAnswerAt_zero, ha], by simp⟩⟩
    · rw [hp, andThen_halt] at h
      cases h
      exact ⟨0, b, rfl, fun k hk => absurd hk (by omega), .inr ⟨by rw [putAnswerAt_zero, ha], by simp⟩⟩

/-- Open(), said once (42_gif_writer R201). -/
theorem openSink_cases (s : State) :
    (s.env.openAnswer = .ok ∧ openSink s = .go { s.log (.openSink .ok) with opened := true }) ∨
    (s.env.openAnswer = .error ∧ openSink s = .halt ((s.log (.openSink .error)).raise .ioOpen 0)) ∨
    (s.env.openAnswer = .never ∧ openSink s = .halt ((s.log (.openSink .never)).wait .openPort)) := by
  unfold openSink
  cases h : s.env.openAnswer <;> simp

/-! ### The other environment calls -/

/-- XLATE, said once (40_sampler R140). -/
theorem xlateFrame_cases (s : State) :
    (∃ tx ty, s.env.xlateAnswer s.fidx = some (tx, ty) ∧
      xlateFrame s = .go { s.log (.xlate s.fidx) with tx := tx, ty := ty }) ∨
    (s.env.xlateAnswer s.fidx = none ∧ xlateFrame s = .halt ((s.log (.xlate s.fidx)).wait .translation)) := by
  unfold xlateFrame
  rcases h : s.env.xlateAnswer s.fidx with _ | ⟨tx, ty⟩
  · exact .inr ⟨rfl, rfl⟩
  · exact .inl ⟨tx, ty, rfl, rfl⟩

/-- Advance(n), said once (43_sequencer R233). -/
theorem advanceBy_cases (n : Nat) (s : State) :
    (s.env.advanceAnswer = true ∧ advanceBy n s =
      .go { s with env := { s.env with steps := s.env.steps + n, trace := .advance n :: s.env.trace } }) ∨
    (s.env.advanceAnswer = false ∧ advanceBy n s = .halt ((s.log (.advance n)).wait .advance)) := by
  unfold advanceBy
  cases h : s.env.advanceAnswer <;> simp [State.log]

/-- SAMPLE, said once (40_sampler R141): the pixel's symbol if it has one, with a request only inside a cell. -/
theorem sample_cases (x y : Nat) (s : State) :
    (pixelKind s x y = .gridline ∧ sample x y s = (some 2, s)) ∨
    (∃ col row live, pixelKind s x y = .inCell col row ∧ s.env.cellAnswer col row = some live ∧
      sample x y s = (some (cellSymbol live), s.log (.cell col row))) ∨
    (∃ col row, pixelKind s x y = .inCell col row ∧ s.env.cellAnswer col row = none ∧
      sample x y s = (none, (s.log (.cell col row)).wait .cell)) := by
  unfold sample queryCell
  cases hk : pixelKind s x y with
  | gridline => exact .inl ⟨rfl, rfl⟩
  | inCell col row =>
    cases ha : s.env.cellAnswer col row with
    | none => exact .inr (.inr ⟨col, row, rfl, ha, by simp [ha]⟩)
    | some live => exact .inr (.inl ⟨col, row, live, rfl, ha, by simp [ha]⟩)

end Sys2Proof.Laws
end

