-- ==== Sys2Proof/Laws/Step.lean ====
section
/-! SUPPORT. Everything the acceptance of a command, a micro-operation run by itself, and a step can do. -/

namespace Sys2Proof.Laws

open Sys2Proof.Machine

/-- Nothing is accepted while the core is not ready (43_sequencer R230). -/
theorem acceptCommand_notReady {i : Instr} {body : State → Flow} {s : State} (h : s.cmdReady = false) :
    acceptCommand i body s = .next s := by
  simp [acceptCommand, h]

/-- A ready core in the command's legal STATE runs it (43_sequencer R230). -/
theorem acceptCommand_legal {i : Instr} {body : State → Flow} {s : State} (h : s.cmdReady = true)
    (hl : legalState i = some s.state) : acceptCommand i body s = (body { s with busy := true }).finish := by
  simp [acceptCommand, h, hl]

/-- A ready core in any other STATE raises SEQ (43_sequencer R230). -/
theorem acceptCommand_outOfOrder {i : Instr} {body : State → Flow} {s : State} {legal : SeqState}
    (h : s.cmdReady = true) (hl : legalState i = some legal) (hs : s.state ≠ legal) :
    acceptCommand i body s = .next (s.raise .seq (seqInfo s.state (commandByte i))) := by
  simp [acceptCommand, h, hl, hs]

/-- A ready core raises BADCMD on what is no command (43_sequencer R230). -/
theorem acceptCommand_reserved {i : Instr} {body : State → Flow} {s : State} (h : s.cmdReady = true)
    (hl : legalState i = none) :
    acceptCommand i body s = .next (s.raise .badCmd (badCmdInfo (commandByte i))) := by
  simp [acceptCommand, h, hl]

/-- Acceptance, said once: it always answers a next state, by one of four ways. -/
theorem acceptCommand_cases (i : Instr) (body : State → Flow) (s : State) :
    (s.cmdReady = false ∧ acceptCommand i body s = .next s) ∨
    (s.cmdReady = true ∧ legalState i = none ∧
      acceptCommand i body s = .next (s.raise .badCmd (badCmdInfo (commandByte i)))) ∨
    (s.cmdReady = true ∧ (∃ legal, legalState i = some legal ∧ s.state ≠ legal) ∧
      acceptCommand i body s = .next (s.raise .seq (seqInfo s.state (commandByte i)))) ∨
    (s.cmdReady = true ∧ legalState i = some s.state ∧
      acceptCommand i body s = (body { s with busy := true }).finish) := by
  cases hr : s.cmdReady with
  | false => exact .inl ⟨rfl, acceptCommand_notReady hr⟩
  | true =>
    cases hl : legalState i with
    | none => exact .inr (.inl ⟨rfl, rfl, acceptCommand_reserved hr hl⟩)
    | some legal =>
      by_cases hs : s.state = legal
      · subst hs; exact .inr (.inr (.inr ⟨rfl, rfl, acceptCommand_legal hr hl⟩))
      · exact .inr (.inr (.inl ⟨rfl, ⟨legal, rfl, hs⟩, acceptCommand_outOfOrder hr hl hs⟩))

/-- The end of a command is always a next state. -/
theorem finish_eq_next {f : Flow} {t : State} :
    f.finish = .next t ↔ (∃ s, f = .go s ∧ t = { s with busy := false }) ∨ f = .halt t := by
  cases f <;> simp [Flow.finish, eq_comm]

/-- A record written by itself, said once. -/
theorem runPut_cases (bytes : List Byte) (s : State) :
    (s.stopped = true ∧ runPut bytes s = .next s) ∨
    (s.stopped = false ∧ runPut bytes s = .next (putBytes bytes s).state) := by
  cases h : s.stopped <;> simp [runPut, runMicro, h]

/-- A code sent by itself, said once. -/
theorem runCode_cases (op : Lzw → Lzw) (s : State) :
    (s.stopped = true ∧ runCode op s = .next s) ∨
    (s.stopped = false ∧ runCode op s = .next { s with lzw := op s.lzw }) := by
  cases h : s.stopped <;> simp [runCode, h]

/-- A step, said once: a reset, a core that waits for ever, the end of a run, the slot, a command, or nothing. -/
theorem step_cases (s : State) :
    (∃ o k script, s.env.script = .reset o k :: script ∧ step s = .next (s.afterReset o k script)) ∨
    ((∀ o k script, s.env.script ≠ .reset o k :: script) ∧
      ((s.busy = true ∧ step s = .fault (.waitingForAnswer s.waiting)) ∨
       (s.busy = false ∧ s.state.terminal = true ∧ step s = .next s) ∨
       (s.cmdReady = true ∧
         ((∃ e i, s.slot = some e ∧ decode e = .ok i ∧ step s = exec i { s with slot := none }) ∨
          (∃ e r, s.slot = some e ∧ decode e = .bad r ∧ step s = .refused (.undecodable r)) ∨
          (s.slot = none ∧ ∃ b pins script, s.env.script = .command b pins :: script ∧
            step s = exec (decodeCommand b) (s.afterAccept pins script)) ∨
          (s.slot = none ∧ s.env.script = [] ∧ step s = .next s))))) := by
  cases hs : s.env.script with
  | nil =>
    refine .inr ⟨by simp, ?_⟩
    cases hb : s.busy
    · cases ht : s.state.terminal
      · refine .inr (.inr ⟨by simp [State.cmdReady, hb, ht], ?_⟩)
        cases he : s.slot with
        | none => exact .inr (.inr (.inr ⟨rfl, rfl, by simp [step, fetch, fetchReady, hs, hb, ht, he]⟩))
        | some e =>
          cases hd : decode e with
          | ok i => exact .inl ⟨e, i, rfl, hd, by simp [step, fetch, fetchReady, hs, hb, ht, he, hd]⟩
          | bad r => exact .inr (.inl ⟨e, r, rfl, hd, by simp [step, fetch, fetchReady, hs, hb, ht, he, hd]⟩)
      · exact .inr (.inl ⟨rfl, rfl, by simp [step, fetch, hs, hb, ht]⟩)
    · exact .inl ⟨rfl, by simp [step, fetch, hs, hb]⟩
  | cons event script =>
    cases event with
    | reset o k => exact .inl ⟨o, k, script, rfl, by simp [step, fetch, hs]⟩
    | command b pins =>
      refine .inr ⟨by simp, ?_⟩
      cases hb : s.busy
      · cases ht : s.state.terminal
        · refine .inr (.inr ⟨by simp [State.cmdReady, hb, ht], ?_⟩)
          cases he : s.slot with
          | none =>
            exact .inr (.inr (.inl ⟨rfl, b, pins, script, rfl, by simp [step, fetch, fetchReady, hs, hb, ht, he]⟩))
          | some e =>
            cases hd : decode e with
            | ok i => exact .inl ⟨e, i, rfl, hd, by simp [step, fetch, fetchReady, hs, hb, ht, he, hd]⟩
            | bad r => exact .inr (.inl ⟨e, r, rfl, hd, by simp [step, fetch, fetchReady, hs, hb, ht, he, hd]⟩)
        · exact .inr (.inl ⟨rfl, rfl, by simp [step, fetch, hs, hb, ht]⟩)
      · exact .inl ⟨rfl, by simp [step, fetch, hs, hb]⟩

end Sys2Proof.Laws
end

