-- ==== Sys2Proof/Laws/Exec.lean ====
section
/-! SUPPORT. The forms of exec's arms, and the frame of each command's body: which fields it can write, however it ends. -/

namespace Sys2Proof.Laws

open Sys2Proof.Machine

/-- The pseudocode of a command; the other rows are no commands. -/
def commandBody : Instr → Option (State → Flow)
  | .cfg => some cfgBody
  | .hdr => some hdrBody
  | .rast => some rastBody
  | .enc => some encBody
  | .wfrm => some wfrmBody
  | .adv => some advBody
  | .close => some closeBody
  | .frame => some frameBody
  | .run => some runBody
  | .reserved _ _ => some .go
  | .lit _ | .clear | .eoi | .dict _ => none
  | .sig | .lsd _ _ _ | .gct _ | .appext | .gce _ | .imgdesc _ _ | .mincode | .subblock _ _ | .terminator | .trailer => none

/-- A command byte's meaning is the acceptance of its body. -/
theorem exec_command {i : Instr} {body : State → Flow} (h : commandBody i = some body) (s : State) :
    exec i s = acceptCommand i body s := by
  cases i <;> cases h <;> rfl

/-- Every arm of exec is one of four forms. -/
theorem exec_forms (i : Instr) (s : State) :
    (∃ body, commandBody i = some body ∧ exec i s = acceptCommand i body s) ∨
    (∃ c op, encode i = .code c ∧ i ≠ .eoi ∧ exec i s = runCode op s ∧
      ((i ≠ .clear ∧ op = lzwEmit c) ∨ (i = .clear ∧ op = lzwClear))) ∨
    (i = .eoi ∧ exec i s = .refused .eoiNeverEmitted) ∨
    (∃ bytes, (encode i = .record bytes ∨ encode i = .block bytes) ∧ exec i s = runPut bytes s) := by
  cases i
  case lit sym => exact .inr (.inl ⟨_, _, rfl, by simp, rfl, .inl ⟨by simp, rfl⟩⟩)
  case clear => exact .inr (.inl ⟨_, _, rfl, by simp, rfl, .inr ⟨rfl, rfl⟩⟩)
  case eoi => exact .inr (.inr (.inl ⟨rfl, rfl⟩))
  case dict c => exact .inr (.inl ⟨_, _, rfl, by simp, rfl, .inl ⟨by simp, rfl⟩⟩)
  case subblock n data => exact .inr (.inr (.inr ⟨_, .inr rfl, rfl⟩))
  case terminator => exact .inr (.inr (.inr ⟨_, .inr rfl, rfl⟩))
  case sig | lsd | gct | appext | gce | imgdesc | mincode | trailer => exact .inr (.inr (.inr ⟨_, .inl rfl, rfl⟩))
  all_goals exact .inl ⟨_, rfl, rfl⟩

/-- A ready core is not busy and not at the end of a run. -/
theorem cmdReady_iff {s : State} : s.cmdReady = true ↔ s.busy = false ∧ s.state.terminal = false := by
  simp [State.cmdReady]

/-! ### Frames of the bodies -/

/-- Put of bytes writes OUT, OUTCNT, the trace, and what a stop writes. -/
theorem putBytes_frame (bytes : List Byte) (s : State) :
    (putBytes bytes s).state =
      { s with out := (putBytes bytes s).state.out, outcnt := (putBytes bytes s).state.outcnt,
               state := (putBytes bytes s).state.state, busy := (putBytes bytes s).state.busy,
               fault := (putBytes bytes s).state.fault, cause := (putBytes bytes s).state.cause,
               info := (putBytes bytes s).state.info, opened := (putBytes bytes s).state.opened,
               waiting := (putBytes bytes s).state.waiting,
               env := { s.env with trace := (putBytes bytes s).state.env.trace } } := by
  cases h : putBytes bytes s with
  | go t => obtain ⟨_, rfl⟩ := putBytes_eq_go.1 h; rfl
  | halt t =>
    obtain ⟨k, b, _, _, h' | h'⟩ := putBytes_eq_halt h
    · obtain ⟨_, rfl⟩ := h'; simp [Flow.state, State.raise, release_eq, State.log, State.afterPuts]
    · obtain ⟨_, rfl⟩ := h'; rfl

/-- The pixel loops of RAST write PIX, RASTER, the trace, and what a wait writes. -/
theorem rastLoop_frame (n : Nat) (done : List Symbol) (s : State) :
    (rastLoop n done s).state =
      { s with pix := (rastLoop n done s).state.pix, raster := (rastLoop n done s).state.raster,
               busy := (rastLoop n done s).state.busy, waiting := (rastLoop n done s).state.waiting,
               env := { s.env with trace := (rastLoop n done s).state.env.trace } } := by
  induction n generalizing done s with
  | zero => rfl
  | succ n ih =>
    unfold rastLoop
    rcases sample_cases (s.pix.toNat % s.w.toNat) (s.pix.toNat / s.w.toNat) s with
      ⟨_, hs⟩ | ⟨col, row, live, _, _, hs⟩ | ⟨col, row, _, _, hs⟩
    · rw [hs]; exact (ih _ _).trans rfl
    · rw [hs]; exact (ih _ _).trans rfl
    · rw [hs]; rfl

/-- The symbol loop of ENC writes PIX and the LZW unit, unless it raises CONTRACT. -/
theorem encLoop_cases (symbols : List Symbol) (s : State) :
    (∃ l n, encLoop symbols s = .go { s with lzw := l, pix := n }) ∨
    (∃ l n, encLoop symbols s = .halt (({ s with lzw := l, pix := n } : State).raise .contract (n.setWidth 64))) := by
  induction symbols generalizing s with
  | nil => exact .inl ⟨s.lzw, s.pix, rfl⟩
  | cons sym rest ih =>
    unfold encLoop
    cases h : lzwSym sym.toNat s.lzw with
    | none => exact .inr ⟨s.lzw, s.pix, rfl⟩
    | some l => simpa using ih { s with lzw := l, pix := s.pix + 1 }

end Sys2Proof.Laws
end

