-- ==== Sys2Proof/Laws/Memory.lean ====
section
/-! SUPPORT. The code table as a memory: reading back what was written, and the canonical form, which every operation on
it keeps. -/

namespace Sys2Proof.Laws

open Sys2Proof.Machine

/-- The canonical form from a bound implies it from every lower bound. -/
theorem risesFrom_mono {lo hi : Nat} {m : Memory} (h : lo ≤ hi) (hm : Memory.risesFrom hi m = true) :
    Memory.risesFrom lo m = true := by
  cases m with
  | nil => rfl
  | cons e rest =>
    simp only [Memory.risesFrom, Bool.and_eq_true, decide_eq_true_eq] at hm ⊢
    exact ⟨⟨h.trans hm.1.1, hm.1.2⟩, hm.2⟩

/-- Nothing is stored below the bound. -/
theorem read_below {lo a : Nat} {m : Memory} (hm : Memory.risesFrom lo m = true) (ha : a < lo) :
    Memory.read m a = none := by
  induction m generalizing lo with
  | nil => rfl
  | cons e rest ih =>
    simp only [Memory.risesFrom, Bool.and_eq_true, decide_eq_true_eq] at hm
    have hne : a ≠ e.1 := by omega
    simp only [Memory.read, hne, if_false]
    exact ih hm.2 (by omega)

/-- A write keeps the canonical form from a bound at or below its address. -/
theorem write_risesFrom {lo a : Nat} {m : Memory} (c : Code) (hm : Memory.risesFrom lo m = true) (hlo : lo ≤ a)
    (ha : a < Memory.size) : Memory.risesFrom lo (Memory.write m a c) = true := by
  induction m generalizing lo with
  | nil => simp [Memory.write, Memory.risesFrom, hlo, ha]
  | cons e rest ih =>
    obtain ⟨b, d⟩ := e
    simp only [Memory.risesFrom, Bool.and_eq_true, decide_eq_true_eq] at hm
    unfold Memory.write
    split
    next hlt =>
      simp only [Memory.risesFrom, Bool.and_eq_true, decide_eq_true_eq]
      exact ⟨⟨hlo, ha⟩, ⟨by omega, hm.1.2⟩, hm.2⟩
    next hge =>
      split
      next heq =>
        subst heq
        simp only [Memory.risesFrom, Bool.and_eq_true, decide_eq_true_eq]
        exact ⟨⟨hlo, ha⟩, hm.2⟩
      next hne =>
        simp only [Memory.risesFrom, Bool.and_eq_true, decide_eq_true_eq]
        exact ⟨hm.1, ih hm.2 (by omega)⟩

/-- A write inside the space keeps the canonical form. -/
theorem write_wf {a : Nat} {m : Memory} (c : Code) (hm : Memory.wf m = true) (ha : a < Memory.size) :
    Memory.wf (Memory.write m a c) = true :=
  write_risesFrom c hm (Nat.zero_le a) ha

/-- A read after a write to the same address gives what was written. -/
theorem read_write_same (m : Memory) (a : Nat) (c : Code) : Memory.read (Memory.write m a c) a = some c := by
  induction m with
  | nil => simp [Memory.write, Memory.read]
  | cons e rest ih =>
    obtain ⟨b, d⟩ := e
    unfold Memory.write
    split
    · simp [Memory.read]
    · split
      · simp [Memory.read]
      next hne => simp [Memory.read, hne, ih]

/-- A write leaves every other address alone. -/
theorem read_write_other (m : Memory) {a b : Nat} (c : Code) (h : b ≠ a) :
    Memory.read (Memory.write m a c) b = Memory.read m b := by
  induction m with
  | nil => simp [Memory.write, Memory.read, h]
  | cons e rest ih =>
    obtain ⟨k, d⟩ := e
    unfold Memory.write
    split
    · simp [Memory.read, h]
    · split
      next heq => subst heq; simp [Memory.read, h]
      next => simp [Memory.read, ih]

/-- Every address of the code table is inside the space when the symbol is one of the four. -/
theorem ctAddress_lt (p : Code) {sym : Nat} (h : sym ≤ 3) : ctAddress p sym < Memory.size := by
  have := p.isLt
  simp only [ctAddress, Memory.size]
  omega

/-- The empty table is canonical. -/
theorem empty_wf : Memory.wf [] = true := rfl

/-- LZW.EMIT does not touch the table. -/
@[simp] theorem lzwEmit_ct (c : Code) (l : Lzw) : (lzwEmit c l).ct = l.ct := rfl

/-- PACK.FLUSH does not touch the table. -/
@[simp] theorem packFlush_ct (l : Lzw) : (packFlush l).ct = l.ct := by
  unfold packFlush
  split <;> rfl

/-- LZW.MISS keeps the canonical form. -/
theorem lzwMiss_wf {sym : Nat} {l : Lzw} (h : sym ≤ 3) (hm : Memory.wf l.ct = true) :
    Memory.wf (lzwMiss sym l).ct = true := by
  unfold lzwMiss
  split
  · rfl
  · exact write_wf _ hm (ctAddress_lt _ h)

/-- LZW.SYM keeps the canonical form. -/
theorem lzwSym_wf {sym : Nat} {l l' : Lzw} (hm : Memory.wf l.ct = true) (h : lzwSym sym l = some l') :
    Memory.wf l'.ct = true := by
  unfold lzwSym at h
  split at h
  · cases h
  · split at h
    · cases h; exact hm
    · split at h
      · cases h; exact hm
      · cases h; exact lzwMiss_wf (by omega) hm

/-- LZW.FIN keeps the canonical form. -/
theorem lzwFin_wf {l l' : Lzw} (hm : Memory.wf l.ct = true) (h : lzwFin l = some l') : Memory.wf l'.ct = true := by
  unfold lzwFin at h
  split at h
  · cases h
  · cases h; exact hm

/-- The code table at reset is canonical. -/
theorem reset_wf : Memory.wf State.reset.lzw.ct = true := rfl

end Sys2Proof.Laws
end

