-- ==== Sys2Proof/Laws/PerInstr.lean ====
section
/-! SUPPORT. Statements about every instruction as syntax, one lemma per constructor. -/

namespace Sys2Proof.Laws

/-- The number of bits of an operation's words. -/
def encodedBits : Encoded → Nat
  | .command _ => 8
  | .code _ => 12
  | .record bytes => 8 * bytes.length
  | .block bytes => 8 * bytes.length

/-- The number of bits the opcode table gives a row (its width_bits, or its length_bytes; 30_encoding R91, R94, R109). -/
def rowBits : Instr → Nat
  | .cfg | .hdr | .rast | .enc | .wfrm | .adv | .close | .frame | .run | .reserved _ _ => 8
  | .lit _ | .clear | .eoi | .dict _ => 12
  | .sig => 8 * 6
  | .lsd _ _ _ => 8 * 7
  | .gct _ => 8 * 12
  | .appext => 8 * 19
  | .gce _ => 8 * 8
  | .imgdesc _ _ => 8 * 10
  | .mincode => 8 * 1
  | .subblock n _ => 8 * (1 + n.toNat)
  | .terminator => 8 * 1
  | .trailer => 8 * 1

namespace RowWidth

/-- The words of a well-formed instruction have the width the opcode table gives its row. -/
def Statement (i : Instr) : Prop := i.wellFormed = true → encodedBits (encode i) = rowBits i

theorem cfg : Statement .cfg := fun _ => rfl
theorem hdr : Statement .hdr := fun _ => rfl
theorem rast : Statement .rast := fun _ => rfl
theorem enc : Statement .enc := fun _ => rfl
theorem wfrm : Statement .wfrm := fun _ => rfl
theorem adv : Statement .adv := fun _ => rfl
theorem close : Statement .close := fun _ => rfl
theorem frame : Statement .frame := fun _ => rfl
theorem run : Statement .run := fun _ => rfl
theorem reserved (r p : BitVec 4) : Statement (.reserved r p) := fun _ => rfl
theorem lit (sym : Symbol) : Statement (.lit sym) := fun _ => rfl
theorem clear : Statement .clear := fun _ => rfl
theorem eoi : Statement .eoi := fun _ => rfl
theorem dict (c : Code) : Statement (.dict c) := fun _ => rfl
theorem sig : Statement .sig := fun _ => rfl
theorem lsd (w h : BitVec 16) (cres : BitVec 3) : Statement (.lsd w h cres) := fun _ => rfl
theorem gct (gray : Byte) : Statement (.gct gray) := fun _ => rfl
theorem appext : Statement .appext := fun _ => rfl
theorem gce (pause : BitVec 16) : Statement (.gce pause) := fun _ => rfl
theorem imgdesc (w h : BitVec 16) : Statement (.imgdesc w h) := fun _ => rfl
theorem mincode : Statement .mincode := fun _ => rfl
theorem subblock (n : Byte) (data : List Byte) : Statement (.subblock n data) := by
  intro h
  simp only [Instr.wellFormed, Bool.and_eq_true, beq_iff_eq] at h
  simp [encode, encodedBits, rowBits, h.2, Nat.add_comm]
theorem terminator : Statement .terminator := fun _ => rfl
theorem trailer : Statement .trailer := fun _ => rfl

end RowWidth

end Sys2Proof.Laws
end

