-- ==== Sys2Proof/Tests/Slice0.lean ====
section
/-! SUPPORT. Tests. Expected results come from the examples, tables and vectors of spec/; each test names its source.
The states below have the vectors' GRAY = 0x80 and CRES = 1, answers listed, and a sink that accepts every byte. -/

namespace Sys2Proof.Tests

open Sys2Proof.Machine

/-- The next state of an outcome. -/
def nextOf (o : Host.Outcome State Fault Refusal) : Option State :=
  match o with
  | .next s => some s
  | .fault _ => none
  | .refused _ => none

/-- One field of the next state, if there is one. -/
def after {α : Type} (i : Instr) (s : State) (field : State → α) : Option α := (nextOf (exec i s)).map field

/-- The configuration port of a program of spec/95_test_vectors.md. -/
def pinsOf (frames pause cell grid cols rows : Nat) : CfgPort :=
  { frames := frames, pause := pause, cell := cell, grid := grid, cols := cols, rows := rows }

/-- IDLE, with program P1's configuration at the port; translation (0, 0) for frames 0 and 1, cell (0, 0) live in even
steps, advances answered, and a sink that opens and accepts everything. -/
def idle : State :=
  { State.reset with
      params := { gray := 0x80, cres := 1 },
      env := { script := [], pins := pinsOf 1 0 1 0 1 1, xlates := [(0, some (0, 0)), (1, some (0, 0))],
               cells := [((0, 0, 0), some true), ((1, 0, 0), some false)], advances := [(0, true)],
               openPlan := .answers .ok, sinkPlan := .accepts 0 .ok, steps := 0, trace := [] } }

/-- `idle` with another configuration at the port. -/
def withPins (c : CfgPort) : State := { idle with env := { idle.env with pins := c } }

/-- A configured state of a canvas with one cell, CELL = GRID = 1 (95 V2 (a)): W = H = 3. -/
def ready3 : State :=
  { idle with frames := 2, pause := 50, cell := 1, grid := 1, cols := 1, rows := 1, p := 2, w := 3, h := 3, state := .ready }

/-- The same of program P1: W = H = 1. -/
def ready1 : State :=
  { idle with frames := 1, cell := 1, cols := 1, rows := 1, p := 1, w := 1, h := 1, state := .ready }

/-- OPEN, the sink held. OUT is left empty, to keep the tests small. -/
def open3 : State := { ready3 with state := .isOpen, opened := true }

/-- OPEN on program P1's canvas. -/
def open1 : State := { ready1 with state := .isOpen, opened := true }

/-- RASTERED, with these symbols on a canvas of one row. -/
def rastered (symbols : List Symbol) : State :=
  { open1 with state := .rastered, w := BitVec.ofNat 16 symbols.length, raster := symbols }

/-- ENCODED, with this LZWB on program P2's canvas. -/
def encoded3 (lzwb : List Byte) : State := { open3 with state := .encoded, lzwb := lzwb }

/-- A sink that accepts `count` bytes and refuses the next. -/
def refusing (count : Nat) (s : State) : State := { s with env := { s.env with sinkPlan := .accepts count .error } }

/-! ### WellFormed: one ill-formed term for each check -/

/-- 30_encoding R93: 0x01 is CFG, no reserved byte. -/
theorem test_illformed_reserved : Instr.wellFormed (.reserved 0 1) = false := by decide
/-- R94: codes 4 and 5 are no dictionary codes. -/
theorem test_illformed_dict : Instr.wellFormed (.dict 5) = false := by decide
/-- R97: a sub-block is not empty. -/
theorem test_illformed_subblock_empty : Instr.wellFormed (.subblock 0 []) = false := by decide
/-- R97: the length byte counts the data bytes. -/
theorem test_illformed_subblock_length : Instr.wellFormed (.subblock 2 [0x33]) = false := by decide
/-- The bounds of the same three rows. -/
theorem test_wellformed_bounds :
    Instr.wellFormed (.reserved 1 1) = true ∧ Instr.wellFormed (.reserved 0 0) = true ∧
    Instr.wellFormed (.reserved 0 0xA) = true ∧ Instr.wellFormed (.reserved 0 9) = false ∧
    Instr.wellFormed (.dict 6) = true ∧ Instr.wellFormed (.subblock 1 [0x00]) = true := by decide

/-! ### Decoding: every row from a word written out from 30_encoding -/

/-- R92: RSV in bits 7:4, OP in bits 3:0. -/
theorem test_decode_commands :
    decode (.command 0b00000001) = .ok .cfg ∧ decode (.command 0b00000010) = .ok .hdr ∧
    decode (.command 0b00000011) = .ok .rast ∧ decode (.command 0b00000100) = .ok .enc ∧
    decode (.command 0b00000101) = .ok .wfrm ∧ decode (.command 0b00000110) = .ok .adv ∧
    decode (.command 0b00000111) = .ok .close ∧ decode (.command 0b00001000) = .ok .frame ∧
    decode (.command 0b00001001) = .ok .run := by decide
/-- R93: OP 0 and A to F, and any RSV but 0. -/
theorem test_decode_reserved :
    decode (.command 0b00000000) = .ok (.reserved 0x0 0x0) ∧ decode (.command 0b00001111) = .ok (.reserved 0x0 0xF) ∧
    decode (.command 0b00010001) = .ok (.reserved 0x1 0x1) ∧ decode (.command 0b10100011) = .ok (.reserved 0xA 0x3) := by
  decide
/-- R94: the code classes at their bounds. -/
theorem test_decode_codes :
    decode (.code 0b000000000000) = .ok (.lit 0) ∧ decode (.code 0b000000000011) = .ok (.lit 3) ∧
    decode (.code 0b000000000100) = .ok .clear ∧ decode (.code 0b000000000101) = .ok .eoi ∧
    decode (.code 0b000000000110) = .ok (.dict 6) ∧ decode (.code 0b111111111111) = .ok (.dict 4095) := by decide
/-- R99: the ASCII of GIF89a. -/
theorem test_decode_sig : decode (.record [0x47, 0x49, 0x46, 0x38, 0x39, 0x61]) = .ok .sig := by decide
/-- 95 V21: LSD(65535, 1) at CRES = 1; its sort flag must be 0 (R100). -/
theorem test_decode_lsd :
    decode (.record [0xFF, 0xFF, 0x01, 0x00, 0x91, 0x00, 0x00]) = .ok (.lsd 65535 1 1) ∧
    decode (.record [0xFF, 0xFF, 0x01, 0x00, 0x99, 0x00, 0x00]) = .bad .notARecord := by decide
/-- R102: the third entry must be one level three times. -/
theorem test_decode_gct :
    decode (.record [0xFF, 0xFF, 0xFF, 0x00, 0x00, 0x00, 0x80, 0x80, 0x80, 0x00, 0x00, 0x00]) = .ok (.gct 0x80) ∧
    decode (.record [0xFF, 0xFF, 0xFF, 0x00, 0x00, 0x00, 0x80, 0x81, 0x80, 0x00, 0x00, 0x00]) = .bad .notARecord := by
  decide
/-- 95 S1: the last line of the header. -/
theorem test_decode_appext :
    decode (.record [0x21, 0xFF, 0x0B, 0x4E, 0x45, 0x54, 0x53, 0x43, 0x41, 0x50, 0x45, 0x32, 0x2E, 0x30,
                     0x03, 0x01, 0x00, 0x00, 0x00]) = .ok .appext := by decide
/-- 95 V21: GCE(50) and GCE(256). -/
theorem test_decode_gce :
    decode (.record [0x21, 0xF9, 0x04, 0x00, 0x32, 0x00, 0x00, 0x00]) = .ok (.gce 50) ∧
    decode (.record [0x21, 0xF9, 0x04, 0x00, 0x00, 0x01, 0x00, 0x00]) = .ok (.gce 256) := by decide
/-- 95 V21: IMGDESC(65535, 258). -/
theorem test_decode_imgdesc :
    decode (.record [0x2C, 0x00, 0x00, 0x00, 0x00, 0xFF, 0xFF, 0x02, 0x01, 0x00]) = .ok (.imgdesc 65535 258) := by decide
/-- R106, R107, R97. -/
theorem test_decode_one_byte_records :
    decode (.record [0x02]) = .ok .mincode ∧ decode (.record [0x3B]) = .ok .trailer ∧
    decode (.block [0x00]) = .ok .terminator ∧ decode (.record [0x00]) = .bad .notARecord := by decide
/-- 95 V10: the one sub-block of its LZWB, and the same with a wrong length byte. -/
theorem test_decode_subblock :
    decode (.block [0x02, 0xF0, 0x11]) = .ok (.subblock 2 [0xF0, 0x11]) ∧
    decode (.block [0x03, 0xF0, 0x11]) = .bad .notABlock := by decide
/-- The table's words: a command byte, a code in 12 bits, and a record whose first byte is most significant. -/
theorem test_decode_table_word :
    decodeTableWord 8 0x09 = some .run ∧ decodeTableWord 16 0x005 = some .eoi ∧
    decodeTableWord 48 0x474946383961 = some .sig ∧ decodeTableWord 24 0x810000 = some (.lsd 0 0 0) ∧
    decodeTableWord 64 0x21F9040032000000 = some (.gce 50) := by decide

/-! ### The sampler (95 V1, V2) -/

/-- V1: pixel (0, 0) at (-1, -1), CELL = 2, GRID = 1 asks Cell(-1, -1); pixel (0, 3) at (-4, 1) asks Cell(-2, 1). -/
theorem test_sample_negative :
    pixelKind { idle with p := 3, grid := 1, tx := -1, ty := -1 } 0 0 = .inCell (-1) (-1) ∧
    pixelKind { idle with p := 3, grid := 1, tx := -4, ty := 1 } 0 3 = .inCell (-2) 1 := by decide
/-- V1: at (-3, 0) the offset is a multiple of P, a gridline; and the widest offsets. -/
theorem test_sample_edges :
    pixelKind { idle with p := 3, grid := 1, tx := -3, ty := 0 } 0 0 = .gridline ∧
    pixelKind { idle with p := 1, grid := 0, tx := 0x7FFFFFFF, ty := 0x80000000 } 65534 65534 =
      .inCell 2147549181 (-2147418114) := by decide
/-- V2 (a): the raster, and exactly one cell call. -/
theorem test_rast_raster :
    after .rast open3 (fun t => (t.raster, t.pix, t.state)) = some ([2, 2, 2, 2, 1, 2, 2, 2, 2], 9, .rastered) := by decide
/-- V2 (a): the calls, newest first. -/
theorem test_rast_calls : after .rast open3 (fun t => t.env.trace) = some [.cell 0 0, .xlate 0] := by decide

/-! ### The encoder (95 V7, V9, V15, V16) -/

/-- V9: the LZWB of 0 1 0 1 0 1 0 1. -/
theorem test_enc_alternation :
    after .enc (rastered [0, 1, 0, 1, 0, 1, 0, 1]) (fun t => (t.lzwb, t.pix, t.state)) =
      some ([0x03, 0x88, 0x31, 0x00, 0x00], 8, .encoded) := by decide
/-- V10: ten 0s; the table's end state is NEXT = 9, CW = 4, CUR = 8. -/
theorem test_enc_repeated :
    after .enc (rastered [0, 0, 0, 0, 0, 0, 0, 0, 0, 0]) (fun t => (t.lzwb, t.lzw.next, t.lzw.cw, t.lzw.cur)) =
      some ([0x02, 0xF0, 0x11, 0x00], 9, 4, 8) := by decide
/-- V15: 7@3 0@3 7@3 gives C7 01. -/
theorem test_emit_and_flush :
    (packFlush (lzwEmit 7 (lzwEmit 0 (lzwEmit 7 Lzw.reset)))).payload = [0xC7, 0x01] := by decide
/-- V15: a 12-bit code spans three bytes. -/
theorem test_emit_wide :
    (packFlush (lzwEmit 1 { lzwEmit 4095 { lzwEmit 5 { lzwEmit 5 Lzw.reset with cw := 4 } with cw := 12 } with cw := 5 })).payload
      = [0xAD, 0xFF, 0x0F] := by decide
/-- V16: L = 255 and L = 256. -/
theorem test_chunk_lengths :
    (chunk (List.replicate 255 0x00)).length = 257 ∧ (chunk (List.replicate 256 0x00)).length = 259 := by decide +kernel
/-- R165, V18: a miss with NEXT = 4096 sends the match and then code 4, both with 12 bits, and starts anew. -/
theorem test_clear_when_full :
    lzwSym 0 { Lzw.reset with curv := true, cur := 2167, next := 4096, cw := 12 } =
      some { curv := true, cur := 0, next := 6, cw := 3, acc := 0, nb := 0, ct := [], payload := [0x77, 0x48, 0x00] } := by
  decide
/-- R172: a symbol above 3, and no match at the end. -/
theorem test_contract :
    lzwSym 4 Lzw.reset = none ∧ lzwFin Lzw.reset = none ∧
    after .enc (rastered []) (fun t => (t.state, t.cause, t.info)) = some (.fault, .contract, 0) := by decide

/-! ### The writer (95 S1, V21, V24) and the sequencer (95 V22, V23) -/

/-- The start of S1's header, for the canvas (10, 5). -/
theorem test_hdr_bytes :
    after .hdr { ready1 with w := 10, h := 5 } (fun t => (t.out.take 14, t.outcnt, t.opened)) =
      some ([0x47, 0x49, 0x46, 0x38, 0x39, 0x61, 0x0A, 0x00, 0x05, 0x00, 0x91, 0x00, 0x00, 0xFF], 44, true) := by decide
/-- V24: a sink that refuses the byte at offset 0. -/
theorem test_hdr_refused :
    after .hdr (refusing 0 ready1) (fun t => (t.cause, t.info, t.out, t.env.trace)) =
      some (.ioWrite, 0, [], [.release, .put 0x47 .error, .openSink .ok]) := by decide
/-- P2's first frame. -/
theorem test_wfrm_bytes :
    after .wfrm (encoded3 [0x03, 0xB2, 0xE2, 0x04, 0x00]) (fun t => (t.out, t.fidx, t.state)) =
      some ([0x21, 0xF9, 0x04, 0x00, 0x32, 0x00, 0x00, 0x00, 0x2C, 0x00, 0x00, 0x00, 0x00, 0x03, 0x00, 0x03, 0x00, 0x00, 0x02,
             0x03, 0xB2, 0xE2, 0x04, 0x00], 1, .isOpen) := by decide
/-- 10_state R24: FIDX counts modulo 2^32. -/
theorem test_wfrm_wraps : after .wfrm { encoded3 [] with fidx := 0xFFFFFFFF } (fun t => t.fidx) = some 0 := by decide
/-- 42_gif_writer R204: trailer byte, then the release pulse. -/
theorem test_close :
    after .close open1 (fun t => (t.out, t.state, t.done, t.opened, t.env.trace)) =
      some ([0x3B], .closed, true, false, [.release, .put 0x3B .ok]) := by decide
/-- R204: IO_WRITE at the trailer leaves DONE at 0. -/
theorem test_close_refused :
    after .close (refusing 0 open1) (fun t => (t.state, t.done, t.cause, t.opened)) = some (.fault, false, .ioWrite, false) := by
  decide
/-- V22: (255, 0, 257, 257) is the largest canvas, and (1, 1, 1, 32768) is too high. -/
theorem test_cfg_canvas :
    after .cfg (withPins (pinsOf 1 0 255 0 257 257)) (fun t => (t.w, t.h, t.state)) = some (65535, 65535, .ready) ∧
    after .cfg (withPins (pinsOf 1 0 1 1 1 32768)) (fun t => (t.cause, t.info)) = some (.dim, 0x8000000000010001) := by decide
/-- V22: the width is reported first; FRAMES = 0 is BADPARAM. -/
theorem test_cfg_faults :
    after .cfg (withPins (pinsOf 1 0 65535 65535 65535 65535)) (fun t => (t.cause, t.info)) = some (.dim, 8589737985) ∧
    after .cfg (withPins (pinsOf 0 0 1 0 1 1)) (fun t => (t.cause, t.info, t.w)) = some (.badParam, 0, 0) := by decide
/-- 43_sequencer R233. -/
theorem test_adv : after .adv open1 (fun t => (t.env.steps, t.env.trace, t.state)) = some (1, [.advance 1], .isOpen) := by decide
/-- V23: ADV from RASTERED raises SEQ with 0x306. -/
theorem test_adv_seq : after .adv (rastered [0]) (fun t => (t.cause, t.info)) = some (.seq, 0x306) := by decide
/-- V23: byte 0x11 raises BADCMD with 0x11. -/
theorem test_reserved : after (.reserved 1 1) idle (fun t => (t.state, t.cause, t.info)) = some (.fault, .badCmd, 0x11) := by decide
/-- V12 with the centre cell live, through FRAME. -/
theorem test_frame :
    after .frame open3 (fun t => (t.lzwb, t.fidx, t.state)) = some ([0x03, 0xB2, 0xE2, 0x04, 0x00], 1, .isOpen) := by decide
/-- P1, with its cell dead: 67 bytes, CLOSED. -/
theorem test_run_p1 :
    after .run { idle with env := { idle.env with cells := [((0, 0, 0), some false)] } }
      (fun t => (t.state, t.done, t.fidx, t.outcnt, t.out.drop 44)) =
      some (.closed, true, 1, 67, [0x21, 0xF9, 0x04, 0x00, 0x00, 0x00, 0x00, 0x00, 0x2C, 0x00, 0x00, 0x00, 0x00,
        0x01, 0x00, 0x01, 0x00, 0x00, 0x02, 0x01, 0x00, 0x00, 0x3B]) := by decide +kernel
/-- P2: two frames with one step between them. -/
theorem test_run_p2 :
    after .run (withPins (pinsOf 2 50 1 1 1 1)) (fun t => (t.outcnt, t.fidx, t.env.steps, t.out.drop 87)) =
      some (93, 2, 1, [0x03, 0xB2, 0xE0, 0x04, 0x00, 0x3B]) := by decide +kernel
/-- 30_encoding R94, 41_lzw R167 and its example: EMIT(6) on ACC = 0, NB = 3 leaves ACC = 48, NB = 6. -/
theorem test_lit_dict :
    after (.lit 3) idle (fun t => (t.lzw.acc, t.lzw.nb)) = some (3, 3) ∧
    after (.dict 6) { idle with lzw := { Lzw.reset with nb := 3 } } (fun t => (t.lzw.acc, t.lzw.nb)) = some (48, 6) := by
  decide
/-- 41_lzw R165. -/
theorem test_clear :
    after .clear { idle with lzw := { Lzw.reset with next := 4096, cw := 12 } } (fun t => (t.lzw.next, t.lzw.cw, t.lzw.payload, t.lzw.nb))
      = some (6, 3, [0x04], 4) := by decide
/-- 41_lzw R169. -/
theorem test_eoi : exec .eoi idle = .refused .eoiNeverEmitted := rfl
/-- V21: the records' bytes reach the sink. -/
theorem test_records :
    after (.gce 65535) open1 (fun t => t.out) = some [0x21, 0xF9, 0x04, 0x00, 0xFF, 0xFF, 0x00, 0x00] ∧
    after (.lsd 10 5 7) open1 (fun t => t.out) = some [0x0A, 0x00, 0x05, 0x00, 0xF1, 0x00, 0x00] ∧
    after (.imgdesc 7 4) open1 (fun t => t.out) = some [0x2C, 0x00, 0x00, 0x00, 0x00, 0x07, 0x00, 0x04, 0x00, 0x00] ∧
    after (.subblock 2 [0xF0, 0x11]) open1 (fun t => t.out) = some [0x02, 0xF0, 0x11] := by decide
/-- A step takes the host's byte and runs it; reset empties OUT and does not release the sink (70_reset R291). -/
theorem test_step :
    (nextOf (step { open1 with env := { open1.env with script := [.command 0x07 (pinsOf 9 9 9 9 9 9)] } })).map
      (fun t => (t.state, t.frames, t.env.script)) = some (.closed, 1, []) ∧
    (nextOf (step { open1 with out := [0x47], env := { open1.env with script := [.reset .free .free] } })).map
      (fun t => (t.state, t.out, t.opened, t.env.trace)) = some (.idle, [], false, [.rst]) := by decide
/-- 60_exceptions R273: OUTCNT (16) and FIDX (10) can be read; PIX (11), NEXT (18), NB (21) and the parameters cannot.
95 P4's fault: CAUSE (14) reads 7 and INFO (15) 0x205. -/
theorem test_status_read :
    readRegister { open1 with outcnt := 44, fidx := 3 } 16 = some 44 ∧ readRegister { open1 with fidx := 3 } 10 = some 3 ∧
    [11, 18, 21, 0, 12, 17, 22].map (readRegister open1) = [none, none, none, none, none, none, none] ∧
    after .wfrm open1 (fun t => (readRegister t 9, readRegister t 14, readRegister t 15)) =
      some (some 6, some 7, some 0x205) := by decide
/-- Placing a table word runs it next: RUN on the reset state's empty configuration is a DIM fault (V22). -/
theorem test_withFetchWord :
    (nextOf (step (idle.withFetchWord 8 0x09))).map (fun t => t.state) = some .closed ∧
    (nextOf (step (State.reset.withFetchWord 8 0x09))).map (fun t => (t.state, t.cause)) = some (.fault, .dim) ∧
    (nextOf (step (idle.withFetchWord 8 0x3B))).map (fun t => t.info) = some 0x3B ∧
    (nextOf (step (idle.withFetchWord 48 0x474946383961))).map (fun t => t.outcnt) = some 6 := by decide

end Sys2Proof.Tests
end

