-- ==== Sys2Proof/Tests/Witnesses.lean ====
section
/-! SUPPORT. For every obligation with hypotheses, a concrete state and operands that meet all of them together; a
statement of several clauses has one for each, at the bounds of its ranges. -/

namespace Sys2Proof.Tests

open Sys2Proof.Machine

/-- `idle` with these events presented by the host. -/
def presenting (script : List HostEvent) : State := { idle with env := { idle.env with script := script } }

/-- A core that waits for ever on its open port. -/
def waitingCore : State := idle.wait .openPort

/-- The end of a run: FAULT, from OPEN. -/
def faulted : State := open1.raise .seq 0x205

/-- OPEN right after HDR, with HDR's bytes in OUT and ADV presented. -/
def opened : State :=
  { open1 with out := headerBytes open1.params 1 1, outcnt := 44,
               env := { open1.env with script := [.command 0x06 open1.env.pins] } }

/-- A collaborator that never answers for the cell (0, 0). -/
def noCell (s : State) : State := { s with env := { s.env with cells := [((0, 0, 0), none)] } }

/-- OPEN on the canvas of 95 V2 (b): CELL = 2, GRID = 1, COLS = 2, ROWS = 1, so P = 3, W = 7, H = 4. -/
def open7 : State := { open1 with cell := 2, grid := 1, cols := 2, rows := 1, p := 3, w := 7, h := 4 }

theorem witness_EncodeThenDecode :
    Instr.wellFormed (.dict 4095) = true ∧ Instr.wellFormed (.reserved 0xF 0xF) = true ∧
    Instr.wellFormed (.subblock 255 (List.replicate 255 7)) = true := by decide +kernel

theorem witness_DecodedWordsEncodeBack :
    decode (.block [0x01, 0x00]) = .ok (.subblock 1 [0x00]) ∧ decode (.code 0xFFF) = .ok (.dict 4095) := by decide

theorem witness_StepRuns_command :
    (presenting [.command 0x09 idle.env.pins]).cmdReady = true ∧ (presenting [.command 0x09 idle.env.pins]).slot = none ∧
    (presenting [.command 0x09 idle.env.pins]).env.script = [.command 0x09 idle.env.pins] := by decide

theorem witness_StepRuns_slot :
    ({ idle with slot := some (.code 3) } : State).cmdReady = true ∧
    (∀ o k script, ({ idle with slot := some (.code 3) } : State).env.script ≠ .reset o k :: script) ∧
    decode (.code 3) = .ok (.lit 3) := ⟨by decide, nofun, by decide⟩

theorem witness_StepWithoutACommand :
    (∀ o k script, idle.env.script ≠ .reset o k :: script) ∧ (idle.cmdReady = true ∧ idle.slot = none ∧ idle.env.script = []) ∧
    (∀ o k script, faulted.env.script ≠ .reset o k :: script) ∧ (faulted.busy = false ∧ faulted.state = .fault) ∧
    (∀ o k script, waitingCore.env.script ≠ .reset o k :: script) ∧ waitingCore.busy = true :=
  ⟨nofun, by decide, nofun, by decide, nofun, by decide⟩

/-- ResetLeavesTheStatedValues and ResetWinsAndDoesNotRelease. -/
theorem witness_ResetLeaves : (presenting [.reset .free .free]).env.script = .reset .free .free :: [] := rfl

theorem witness_OnlyResetLeaves :
    (faulted.state = .fault ∧ faulted.busy = false) ∧
    (({ idle with state := .closed } : State).state = .closed ∧ ({ idle with state := .closed } : State).busy = false) := by
  decide

/-- OPEN after HDR satisfies the reachable invariant (and is not the reset state). -/
theorem witness_Inv : Inv opened where
  slot := rfl
  busy := rfl
  fault := by decide
  done := by decide
  cause := by decide
  info := by decide
  terminal := by decide
  outcnt := by decide
  opened := by decide
  canvas := fun _ => ⟨by decide, by decide, by decide, by decide, by decide, by decide⟩
  frames := by decide
  lzw := ⟨by decide, by decide, by decide, by decide, List.Perm.refl _, nofun, nofun⟩
  lzwb := nofun
  idle_fidx := nofun
  ready_fidx := nofun
  idle_out := nofun
  ready_out := nofun
  open_out := fun _ _ => ⟨0, rfl, [], rfl, nofun, by decide⟩
  closed_out := nofun
  out_begins := ⟨0, 1, 1, 0, _, ⟨_, ⟨[], rfl, nofun, rfl⟩, rfl⟩, ⟨trailerBytes, by decide⟩⟩

/-- The same state takes a step: ADV runs (EveryStepKeepsTheReachableInvariant). -/
theorem witness_EveryStep : ∃ t, step opened = .next t := ⟨_, rfl⟩

/-- The invariant's state runs an instruction (ContractIsUnreachable). -/
theorem witness_ContractIsUnreachable : (∃ t, exec .rast opened = .next t) ∧ opened.cause ≠ .contract :=
  ⟨⟨_, rfl⟩, by decide⟩

theorem witness_NoCommandIsAccepted :
    waitingCore.busy = true ∧ ({ idle with state := .closed } : State).state = .closed ∧ faulted.state = .fault := by decide

/-- The bounds of the reserved and of the defined bytes, and a STATE in which HDR is not legal. -/
theorem witness_ReservedBytes :
    idle.cmdReady = true ∧ (0x00 : Byte).toNat % 16 = 0 ∧ 10 ≤ (0x0A : Byte).toNat % 16 ∧ 10 ≤ (0x0F : Byte).toNat % 16 ∧
    (0x11 : Byte).toNat / 16 ≠ 0 ∧
    ((0x01 : Byte).toNat / 16 = 0 ∧ (0x01 : Byte).toNat % 16 ≠ 0 ∧ (0x01 : Byte).toNat % 16 < 10) ∧
    ((0x09 : Byte).toNat / 16 = 0 ∧ (0x09 : Byte).toNat % 16 ≠ 0 ∧ (0x09 : Byte).toNat % 16 < 10) ∧
    legalState (decodeCommand 0x02) = some .ready ∧ idle.state ≠ .ready := by decide

theorem witness_LegalityTable :
    (idle.cmdReady = true ∧ idle.state = .idle) ∧ (ready1.cmdReady = true ∧ ready1.state ≠ .idle ∧ ready1.state = .ready) := by
  decide

/-- FaultRecordIsWrittenOnce, ConfigurationIsWrittenOnlyFromIdle, OutIsAppendOnly, FidxIsWrittenOnlyByWfrm and
GrayAndCresReachOnlyTheHeader: an instruction that runs. -/
theorem witness_exec_next :
    (∃ t, exec .rast open1 = .next t) ∧ open1.state ≠ .idle ∧ (∃ t, exec (.gce 5) idle = .next t) := ⟨⟨_, rfl⟩, by decide, ⟨_, rfl⟩⟩

theorem witness_SinkIsReleased :
    ∃ t, exec .close open1 = .next t ∧ open1.opened = true ∧ t.opened = false := ⟨_, rfl, by decide, by decide⟩

/-- UnansweredRequestLeavesTheCoreWaiting: the translation, the very first cell query (pixel 0), the only one of a canvas
with gridlines (pixel 4 of 9), and the advance request. -/
theorem witness_UnansweredRequest :
    (open1.cmdReady = true ∧ open1.state = .isOpen ∧
      Env.xlateAnswer { open1.env with xlates := [(0, none)] } open1.fidx = none) ∧
    (open1.env.xlateAnswer open1.fidx = some (0, 0) ∧ 0 < open1.pixels ∧ pixelSymbol (noCell open1) 0 0 = none) ∧
    (open3.cmdReady = true ∧ open3.state = .isOpen ∧ open3.env.xlateAnswer open3.fidx = some (0, 0) ∧ 4 < open3.pixels ∧
      (∀ i, i < 4 → (pixelSymbol (noCell open3) (i % 3) (i / 3)).isSome = true) ∧
      pixelSymbol (noCell open3) (4 % 3) (4 / 3) = none) ∧
    Env.advanceAnswer { open1.env with advances := [(0, false)] } = false := by decide

/-- Its last clause: an instruction that ends with BUSY = 1. -/
theorem witness_EndsBusy :
    ∃ t, exec .hdr { ready1 with env := { ready1.env with openPlan := .answers .never } } = .next t ∧
      ready1.busy = false ∧ t.busy = true ∧ (∀ o k script, t.env.script ≠ .reset o k :: script) :=
  ⟨_, rfl, by decide, by decide, nofun⟩

/-- CFG: out of order, and from IDLE with a configuration at each bound the checks have. -/
theorem witness_Cfg :
    (ready1.cmdReady = true ∧ ready1.state ≠ .idle) ∧ (idle.cmdReady = true ∧ idle.state = .idle) ∧
    after .cfg (withPins (pinsOf 1 0 1 1 32767 32767)) (fun t => (t.w, t.h)) = some (65535, 65535) ∧
    after .cfg (withPins (pinsOf 1 0 1 0 1 0)) (fun t => (t.cause, t.info)) = some (.dim, 0x8000000000000000) ∧
    after .cfg (withPins (pinsOf 1 0 255 1 256 1)) (fun t => (t.cause, t.info)) = some (.dim, 65537) := by decide

/-- Put: each of the three answers. -/
theorem witness_Put :
    open1.env.putAnswer 0 = .ok ∧ (refusing 0 open1).env.putAnswer 0 = .error ∧ (refusing 1 open1).env.putAnswer 0 = .ok ∧
    Env.putAnswer { open1.env with sinkPlan := .accepts 0 .never } 0 = .never := by decide

/-- The listed sink accepts whatever it holds. -/
theorem takes_all : open1.env.takesAll ∧ open3.env.takesAll ∧ idle.env.takesAll := by
  refine ⟨?_, ?_, ?_⟩ <;> intro held k <;> simp [Env.putAnswerAt, open1, ready1, open3, ready3, idle]

theorem witness_HdrWrites :
    ready1.cmdReady = true ∧ ready1.state = .ready ∧ ready1.env.openAnswer = .ok ∧
    (ready1.log (.openSink .ok)).env.takes ready1.out.length 44 :=
  ⟨by decide, by decide, by decide, fun k _ => takes_all.1 _ k⟩

theorem witness_HdrReports :
    (ready1.cmdReady = true ∧ ready1.state = .ready) ∧
    Env.openAnswer { ready1.env with openPlan := .answers .error } = .error ∧
    Env.openAnswer { ready1.env with openPlan := .answers .never } = .never := by decide

theorem witness_WfrmWrites :
    (encoded3 [0x01, 0x00, 0x00]).cmdReady = true ∧ (encoded3 [0x01, 0x00, 0x00]).state = .encoded ∧
    ∀ n, (encoded3 [0x01, 0x00, 0x00]).env.takes (encoded3 [0x01, 0x00, 0x00]).out.length n :=
  ⟨by decide, by decide, fun _ k _ => takes_all.2.1 _ k⟩

theorem witness_Close :
    open1.cmdReady = true ∧ open1.state = .isOpen ∧ open1.env.takes open1.out.length 1 :=
  ⟨by decide, by decide, fun k _ => takes_all.1 _ k⟩

theorem witness_Records :
    rowBytes .trailer = some [0x3B] ∧ open1.stopped = false ∧ open1.env.takes open1.out.length 1 :=
  ⟨by decide, by decide, fun k _ => takes_all.1 _ k⟩

/-- RefusedByteEndsTheCommand: the first byte of HDR, the last of its 44, the last of WFRM, CLOSE's, and a record's. -/
theorem witness_RefusedByte :
    ((refusing 0 ready1).cmdReady = true ∧ (refusing 0 ready1).state = .ready ∧ (refusing 0 ready1).env.openAnswer = .ok ∧
      (headerBytes ready1.params ready1.w ready1.h)[0]? = some 0x47 ∧ (refusing 0 ready1).env.putAnswerAt 0 0 = .error) ∧
    ((headerBytes ready1.params ready1.w ready1.h)[43]? = some 0x00 ∧ (refusing 43 ready1).env.putAnswerAt 0 43 = .error ∧
      ∀ k, k < 43 → (refusing 43 ready1).env.putAnswerAt 0 k = .ok) ∧
    ((refusing 21 (encoded3 [0x01, 0x00, 0x00])).state = .encoded ∧ (frameBytes 50 3 3 [0x01, 0x00, 0x00])[21]? = some 0x00 ∧
      (refusing 21 (encoded3 [])).env.putAnswerAt 0 21 = .error) ∧
    ((refusing 0 open1).cmdReady = true ∧ (refusing 0 open1).state = .isOpen ∧ (refusing 0 open1).env.putAnswerAt 0 0 = .error) ∧
    ((refusing 1 open1).stopped = false ∧ rowBytes (.subblock 1 [0x05]) = some [0x01, 0x05] ∧
      (refusing 1 open1).env.putAnswerAt 0 1 = .error ∧ (refusing 1 open1).env.putAnswerAt 0 0 = .ok) := by decide

/-- OutcntCountsTheAcceptedBytes. -/
theorem witness_Outcnt :
    opened.outcnt = BitVec.ofNat 64 opened.out.length ∧ ∃ t, step opened = .next t := ⟨by decide, _, rfl⟩

/-- ADV: answered, and out of order. -/
theorem witness_Adv :
    (open1.cmdReady = true ∧ open1.state = .isOpen ∧ open1.env.advanceAnswer = true) ∧
    (ready1.cmdReady = true ∧ ready1.state ≠ .isOpen) := by decide

/-- FloorDivisionLaws: the smallest divisor, and R8's negative dividend. -/
theorem witness_FloorDivision : 1 ≤ 1 ∧ fdiv (-1) 3 = -1 ∧ fmod (-1) 3 = 2 := by decide

/-- SampleFollowsTheFormula: the smallest period. -/
theorem witness_Sample : 1 ≤ open1.p.toNat := by decide

/-- Every pixel of the 1 by 1 canvas is answered. -/
theorem pixels_answered : PixelsAnswered { open1 with tx := 0, ty := 0 } := by
  intro x y hx hy
  obtain rfl : x = 0 := by change x < 1 at hx; omega
  obtain rfl : y = 0 := by change y < 1 at hy; omega
  decide

/-- RastFillsTheRaster and FrameAppendsOneFrame. -/
theorem witness_Rast :
    open1.cmdReady = true ∧ open1.state = .isOpen ∧ 1 ≤ open1.pixels ∧ open1.env.xlateAnswer open1.fidx = some (0, 0) ∧
    PixelsAnswered { open1 with tx := 0, ty := 0 } ∧ open1.env.takesAll :=
  ⟨by decide, by decide, by decide, by decide, pixels_answered, takes_all.1⟩

/-- ZeroTranslationCoversTheGrid: the first and the last pixel of the 3 by 3 canvas (gridlines) and its centre (a cell);
the last cell of the 7 by 4 canvas of 95 V2 (b), at its first and its last pixel. -/
theorem witness_ZeroTranslation :
    CanvasOk open3 ∧ open3.tx = 0 ∧ open3.ty = 0 ∧ 2 < open3.w.toNat ∧ 2 < open3.h.toNat ∧
    pixelKind open3 0 0 = .gridline ∧ pixelKind open3 2 2 = .gridline ∧ pixelKind open3 1 1 = .inCell 0 0 :=
  ⟨⟨by decide, by decide, by decide, by decide, by decide, by decide⟩, by decide⟩

theorem witness_ZeroTranslation_cells :
    CanvasOk open7 ∧ open7.tx = 0 ∧ open7.ty = 0 ∧ 1 < open7.cols.toNat ∧ 0 < open7.rows.toNat ∧ 1 < open7.cell.toNat ∧
    pixelKind open7 (1 * 3 + 1 + 0) (0 * 3 + 1 + 0) = .inCell 1 0 ∧
    pixelKind open7 (1 * 3 + 1 + 1) (0 * 3 + 1 + 1) = .inCell 1 0 :=
  ⟨⟨by decide, by decide, by decide, by decide, by decide, by decide⟩, by decide⟩

/-- EncWritesThePackedCodeStream and EncodedFrameDecodesToTheRaster: the smallest frame. -/
theorem witness_Enc :
    (rastered [0]).cmdReady = true ∧ (rastered [0]).state = .rastered ∧ 1 ≤ (rastered [0]).pixels := by decide

/-- ContractViolationsAreDetected: an empty frame. -/
theorem witness_Contract :
    (rastered []).cmdReady = true ∧ (rastered []).state = .rastered ∧ (rastered []).pixels = 0 := by decide

/-- LzwSymKeepsTheRegisterInvariants, at the reset values of the unit and the largest symbol. -/
theorem witness_LzwSym : LzwInv Lzw.reset ∧ 3 ≤ 3 :=
  ⟨⟨by decide, by decide, by decide, by decide, List.Perm.refl _, nofun, nofun⟩, le_refl _⟩

/-- EmitAddsTheCodesBits and CodesAreSentInTheCurrentWidth: the widest code above seven bits. -/
theorem witness_Emit :
    ({ Lzw.reset with nb := 7, acc := 127, cw := 12 } : Lzw).nb.toNat ≤ 7 ∧
    ({ Lzw.reset with nb := 7, acc := 127, cw := 12 } : Lzw).acc.toNat < 2 ^ 7 ∧
    ({ Lzw.reset with nb := 7, acc := 127, cw := 12 } : Lzw).cw.toNat ≤ 12 ∧ (4095 : Code).toNat < 2 ^ 12 ∧
    encode (.dict 4095) = .code 4095 ∧ encode .clear = .code 4 ∧ idle.stopped = false := by decide

/-- CodeWidthFollowsItsNumber and NoCodeIsEoiAndEveryCodeFits: 95 V7's two codes. -/
theorem witness_CodeWidth :
    (codeStream [0, 0, 0])[1]? = some (6, 3) ∧ (6, 3) ∈ codeStream [0, 0, 0] ∧
    sinceClear ((codeStream [0, 0, 0]).take 1) = 1 := by decide

/-- CodeStreamDecodesToTheRaster: 95 V11's codes. -/
theorem witness_CodeStream :
    ([0, 1, 2, 3, 0, 1, 2, 3, 0, 1, 2, 3] : List Symbol) ≠ [] ∧
    codeStream [0, 1, 2, 3, 0, 1, 2, 3, 0, 1, 2, 3] =
      [(0, 3), (1, 3), (2, 3), (3, 4), (6, 4), (8, 4), (10, 4), (3, 4)] := by decide

/-- LzwbDependsOnTheRasterAlone: two states that differ in FIDX and in PAUSE. -/
theorem witness_LzwbDepends :
    rasterCells 1 0 (rastered [2]).raster = rasterCells 1 0 ({ rastered [2] with fidx := 5, pause := 7 } : State).raster ∧
    (∃ t, exec .enc (rastered [2]) = .next t) ∧ ∃ t, exec .enc { rastered [2] with fidx := 5, pause := 7 } = .next t :=
  ⟨rfl, ⟨_, rfl⟩, ⟨_, rfl⟩⟩

/-- OnlyEoiNeverRuns: an instruction that is not EOI. -/
theorem witness_OnlyEoi : Instr.dict 5 ≠ .eoi := by decide

/-- FrameIsRastEncWfrm and RunIsItsExpansion. -/
theorem witness_Macros :
    (open1.cmdReady = true ∧ open1.state = .isOpen) ∧ (idle.cmdReady = true ∧ idle.state = .idle ∧ idle.fidx = 0) := by decide

/-- Program P1 with two frames, so that there is a step between them. -/
def idle2 : State := withPins (pinsOf 2 0 1 0 1 1)

/-- RunWritesACompleteFile: two frames. -/
theorem witness_RunWrites :
    (idle2.cmdReady = true ∧ idle2.state = .idle ∧ idle2.fidx = 0) ∧
    (dimOk (canvasDim (latchConfig idle2).p idle2.env.pins.cols idle2.env.pins.grid) = true ∧
      dimOk (canvasDim (latchConfig idle2).p idle2.env.pins.rows idle2.env.pins.grid) = true ∧ idle2.env.pins.frames ≠ 0 ∧
      idle2.env.openAnswer = .ok) ∧ idle2.env.takesAll ∧ RunAnswered idle2 := by
  refine ⟨by decide, by decide, fun held k => takes_all.2.2 held k, ?_, ?_⟩
  · intro f hf
    have hf : f = 0 ∨ f = 1 := by change f < 2 at hf; omega
    rcases hf with rfl | rfl <;> refine ⟨0, 0, by decide, fun x y hx hy => ?_⟩ <;>
      obtain ⟨rfl, rfl⟩ : x = 0 ∧ y = 0 := by change x < 1 at hx; change y < 1 at hy; omega
    all_goals decide
  · intro f hf
    obtain rfl : f = 0 := by change f + 1 < 2 at hf; omega
    decide

/-- The frame statements: each command has a next state, in its STATE and out of it. -/
theorem witness_frames :
    (∃ t, exec .cfg idle = .next t) ∧ (∃ t, exec .adv open1 = .next t) ∧ (∃ t, exec (.reserved 1 1) open1 = .next t) ∧
    (∃ t, exec .rast open1 = .next t) ∧ (∃ t, exec .enc (rastered [0]) = .next t) ∧ (∃ t, exec .hdr ready1 = .next t) ∧
    (∃ t, exec .wfrm (encoded3 []) = .next t) ∧ (∃ t, exec .close open1 = .next t) ∧ (∃ t, exec .frame open1 = .next t) ∧
    (∃ t, exec .run idle = .next t) ∧ (∃ t, exec (.lit 3) idle = .next t) ∧ (∃ t, exec .terminator open1 = .next t) :=
  ⟨⟨_, rfl⟩, ⟨_, rfl⟩, ⟨_, rfl⟩, ⟨_, rfl⟩, ⟨_, rfl⟩, ⟨_, rfl⟩, ⟨_, rfl⟩, ⟨_, rfl⟩, ⟨_, rfl⟩, ⟨_, rfl⟩, ⟨_, rfl⟩, ⟨_, rfl⟩⟩

end Sys2Proof.Tests
end

/-! PROOFS of the obligations that come from 00_scope: the parameters GRAY and CRES (R6) and floor division (R8). -/

namespace Sys2Proof.Proofs

open Sys2Proof.Machine Sys2Proof.Laws

/-! ### Floor division -/

/-- Settles O32: for a divisor of at least 1 the model's pair is the library's floor division. -/
theorem floorDivisionLaws : Obligations.FloorDivisionLaws := by
  intro a b hb
  have hb0 : b ≠ 0 := by omega
  simp only [fdiv, fmod, if_neg hb0]
  exact ⟨(Int.mul_fdiv_add_fmod a b).symm, Int.fmod_nonneg_of_pos a (by omega), Int.fmod_lt_of_pos a (by omega)⟩

/-! ### A machine with other parameters -/

/-- The same machine under other values of GRAY and CRES. -/
def withParams (q : Params) (s : State) : State := { s with params := q }

/-- How a stretch of pseudocode ends, under other values of GRAY and CRES. -/
def flowWithParams (q : Params) : Flow → Flow
  | .go s => .go (withParams q s)
  | .halt s => .halt (withParams q s)

/-- A stretch of pseudocode does the same under any values of GRAY and CRES. -/
def IgnoresParams (body : State → Flow) : Prop :=
  ∀ (q : Params) (s : State), body (withParams q s) = flowWithParams q (body s)

/-- A stretch of pseudocode leaves GRAY and CRES as they are. -/
def KeepsParams (body : State → Flow) : Prop := ∀ s : State, (body s).state.params = s.params

section WithParams

variable (q : Params) (s : State)

@[simp] theorem withParams_params : (withParams q s).params = q := rfl
@[simp] theorem withParams_self : withParams s.params s = s := rfl
@[simp] theorem withParams_env : (withParams q s).env = s.env := rfl
@[simp] theorem withParams_out : (withParams q s).out = s.out := rfl
@[simp] theorem withParams_state : (withParams q s).state = s.state := rfl
@[simp] theorem withParams_fidx : (withParams q s).fidx = s.fidx := rfl
@[simp] theorem withParams_pix : (withParams q s).pix = s.pix := rfl
@[simp] theorem withParams_w : (withParams q s).w = s.w := rfl
@[simp] theorem withParams_lzw : (withParams q s).lzw = s.lzw := rfl
@[simp] theorem withParams_stopped : (withParams q s).stopped = s.stopped := rfl

@[simp] theorem flowWithParams_state (f : Flow) : (flowWithParams q f).state = withParams q f.state := by
  cases f <;> rfl

@[simp] theorem release_withParams : (withParams q s).release = withParams q s.release := by
  simp only [release_eq]
  rfl

@[simp] theorem raise_withParams (cause : Cause) (info : BitVec 64) :
    (withParams q s).raise cause info = withParams q (s.raise cause info) := by
  simp only [State.raise, release_eq]
  rfl

end WithParams

/-! ### Sequencing -/

theorem ignoresParams_go {f : State → State} (h : ∀ q s, f (withParams q s) = withParams q (f s)) :
    IgnoresParams fun s => .go (f s) :=
  fun q s => congrArg Flow.go (h q s)

theorem ignoresParams_halt {f : State → State} (h : ∀ q s, f (withParams q s) = withParams q (f s)) :
    IgnoresParams fun s => .halt (f s) :=
  fun q s => congrArg Flow.halt (h q s)

theorem ignoresParams_ite {c : State → Prop} [DecidablePred c] {f k : State → Flow}
    (hc : ∀ q s, c (withParams q s) ↔ c s) (hf : IgnoresParams f) (hk : IgnoresParams k) :
    IgnoresParams fun s => if c s then f s else k s := by
  intro q s
  by_cases h : c s
  · simp only [hc, h, if_true, hf q s]
  · simp only [hc, h, if_false, hk q s]

theorem ignoresParams_andThen {f k : State → Flow} (hf : IgnoresParams f) (hk : IgnoresParams k) :
    IgnoresParams fun s => (f s).andThen k := by
  intro q s
  show (f (withParams q s)).andThen k = flowWithParams q ((f s).andThen k)
  rw [hf q s]
  cases f s with
  | go t => exact hk q t
  | halt t => rfl

theorem keepsParams_andThen {f k : State → Flow} (hf : KeepsParams f) (hk : KeepsParams k) :
    KeepsParams fun s => (f s).andThen k := by
  intro s
  have hs := hf s
  show ((f s).andThen k).state.params = s.params
  cases h : f s with
  | go t => rw [h] at hs; exact (hk t).trans hs
  | halt t => rw [h] at hs; exact hs

/-- What does the same under any parameters does so under its own, so it cannot have written them. -/
theorem IgnoresParams.keepsParams {body : State → Flow} (h : IgnoresParams body) : KeepsParams body := by
  intro s
  have hs : (body s).state = withParams s.params (body s).state := by
    rw [← flowWithParams_state, ← h s.params s, withParams_self]
  rw [hs, withParams_params]

/-! ### The environment calls -/

theorem openSink_ignoresParams : IgnoresParams openSink := by
  intro q s
  unfold openSink
  rw [withParams_env]
  cases s.env.openAnswer with
  | ok => rfl
  | error => exact congrArg Flow.halt (raise_withParams q (s.log _) _ _)
  | never => rfl

theorem putByte_ignoresParams (b : Byte) : IgnoresParams (putByte b) := by
  intro q s
  unfold putByte
  rw [withParams_env, withParams_out]
  cases s.env.putAnswer s.out.length with
  | ok => rfl
  | error => exact congrArg Flow.halt (raise_withParams q (s.log _) _ _)
  | never => rfl

theorem putBytes_ignoresParams (bytes : List Byte) : IgnoresParams (putBytes bytes) := by
  induction bytes with
  | nil => exact fun q s => rfl
  | cons b bs ih => exact ignoresParams_andThen (putByte_ignoresParams b) ih

theorem xlateFrame_ignoresParams : IgnoresParams xlateFrame := by
  intro q s
  unfold xlateFrame
  rw [withParams_env, withParams_fidx]
  cases s.env.xlateAnswer s.fidx <;> rfl

theorem advBody_ignoresParams : IgnoresParams advBody := by
  intro q s
  unfold advBody advanceBy
  rw [withParams_env]
  cases s.env.advanceAnswer <;> rfl

theorem sample_withParams (x y : Nat) (q : Params) (s : State) :
    sample x y (withParams q s) = ((sample x y s).1, withParams q (sample x y s).2) := by
  have hk : pixelKind (withParams q s) x y = pixelKind s x y := rfl
  unfold sample queryCell
  rw [hk, withParams_env]
  cases pixelKind s x y with
  | gridline => rfl
  | inCell col row => cases h : s.env.cellAnswer col row <;> simp only [h] <;> rfl

/-! ### The bodies of the commands -/

theorem rastLoop_ignoresParams (n : Nat) (done : List Symbol) : IgnoresParams (rastLoop n done) := by
  induction n generalizing done with
  | zero => exact fun q s => rfl
  | succ n ih =>
    intro q s
    unfold rastLoop
    rw [withParams_pix, withParams_w, sample_withParams]
    rcases sample (s.pix.toNat % s.w.toNat) (s.pix.toNat / s.w.toNat) s with ⟨_ | sym, t⟩
    · rfl
    · exact ih (sym :: done) q { t with pix := t.pix + 1 }

theorem rastBody_ignoresParams : IgnoresParams rastBody :=
  ignoresParams_andThen xlateFrame_ignoresParams <|
    ignoresParams_andThen (fun q s => rastLoop_ignoresParams s.pixels [] q { s with pix := 0 })
      (ignoresParams_go fun _ _ => rfl)

theorem encLoop_ignoresParams (symbols : List Symbol) : IgnoresParams (encLoop symbols) := by
  induction symbols with
  | nil => exact fun q s => rfl
  | cons sym rest ih =>
    intro q s
    unfold encLoop
    rw [withParams_lzw]
    cases lzwSym sym.toNat s.lzw with
    | none => exact congrArg Flow.halt (raise_withParams q s _ _)
    | some l => exact ih q { s with lzw := l, pix := s.pix + 1 }

theorem encFinish_ignoresParams : IgnoresParams encFinish := by
  intro q s
  unfold encFinish
  rw [withParams_lzw]
  cases lzwFin s.lzw with
  | none => exact congrArg Flow.halt (raise_withParams q s _ _)
  | some l => rfl

theorem encBody_ignoresParams : IgnoresParams encBody :=
  ignoresParams_andThen
    (fun q s => encLoop_ignoresParams (rasterCells s.pixels 0 s.raster) q { s with lzw := lzwInit s.lzw, pix := 0 })
    encFinish_ignoresParams

theorem wfrmBody_ignoresParams : IgnoresParams wfrmBody :=
  ignoresParams_andThen (fun q s => putBytes_ignoresParams (frameBytes s.pause s.w s.h s.lzwb) q s)
    (ignoresParams_go fun _ _ => rfl)

theorem closeBody_ignoresParams : IgnoresParams closeBody :=
  ignoresParams_andThen (putBytes_ignoresParams trailerBytes)
    (ignoresParams_go fun q s => by rw [release_withParams]; rfl)

/-- CFG's checks read the latched values only; each of its four ends commutes with the parameters. -/
theorem cfgBody_ignoresParams : IgnoresParams cfgBody :=
  ignoresParams_ite (fun _ _ => Iff.rfl) (ignoresParams_halt fun q s => raise_withParams q (latchConfig s) _ _) <|
    ignoresParams_ite (fun _ _ => Iff.rfl) (ignoresParams_halt fun q s => raise_withParams q (latchConfig s) _ _) <|
      ignoresParams_ite (fun _ _ => Iff.rfl) (ignoresParams_halt fun q s => raise_withParams q (latchConfig s) _ _) <|
        ignoresParams_go fun _ _ => rfl

theorem frameBody_ignoresParams : IgnoresParams frameBody :=
  ignoresParams_andThen (ignoresParams_andThen rastBody_ignoresParams encBody_ignoresParams) wfrmBody_ignoresParams

/-- The step between two frames of RUN. -/
theorem stepBetweenFrames_ignoresParams :
    IgnoresParams fun s => if s.fidx.toNat < s.frames.toNat then advBody s else .go s :=
  ignoresParams_ite (fun _ _ => Iff.rfl) advBody_ignoresParams (ignoresParams_go fun _ _ => rfl)

theorem runLoop_ignoresParams (fuel : Nat) : IgnoresParams (runLoop fuel) := by
  induction fuel with
  | zero => exact ignoresParams_go fun _ _ => rfl
  | succ fuel ih =>
    exact ignoresParams_ite (fun _ _ => Iff.rfl)
      (ignoresParams_andThen (ignoresParams_andThen frameBody_ignoresParams stepBetweenFrames_ignoresParams) ih)
      (ignoresParams_go fun _ _ => rfl)

/-- HDR reads the parameters, and does not write them. -/
theorem hdrBody_keepsParams : KeepsParams hdrBody :=
  keepsParams_andThen openSink_ignoresParams.keepsParams <|
    keepsParams_andThen (fun s => (putBytes_ignoresParams (headerBytes s.params s.w s.h)).keepsParams s) fun _ => rfl

theorem runBody_keepsParams : KeepsParams runBody :=
  keepsParams_andThen
    (keepsParams_andThen (keepsParams_andThen cfgBody_ignoresParams.keepsParams hdrBody_keepsParams)
      fun s => (runLoop_ignoresParams (s.frames.toNat - s.fidx.toNat)).keepsParams s)
    closeBody_ignoresParams.keepsParams

/-! ### Whole instructions -/

/-- The meaning of an instruction is the same under any values of GRAY and CRES. -/
def OutcomeIgnoresParams (meaning : State → Host.Outcome State Fault Refusal) : Prop :=
  ∀ (q : Params) (s t : State), meaning s = .next t → meaning (withParams q s) = .next (withParams q t)

theorem OutcomeIgnoresParams.keepsParams {meaning : State → Host.Outcome State Fault Refusal}
    (h : OutcomeIgnoresParams meaning) {s t : State} (hn : meaning s = .next t) : t.params = s.params := by
  have hs : meaning s = .next (withParams s.params t) := h s.params s t hn
  have ht : t = withParams s.params t := Host.Outcome.next.inj (hn.symm.trans hs)
  rw [ht, withParams_params]

theorem acceptCommand_ignoresParams (i : Instr) {body : State → Flow} (hb : IgnoresParams body) :
    OutcomeIgnoresParams (acceptCommand i body) := by
  intro q s t h
  rcases acceptCommand_cases i body s with
    ⟨hr, ha⟩ | ⟨hr, hl, ha⟩ | ⟨hr, ⟨legal, hl, hs⟩, ha⟩ | ⟨hr, hl, ha⟩ <;> rw [ha] at h
  · cases h
    exact acceptCommand_notReady hr
  · cases h
    rw [acceptCommand_reserved (s := withParams q s) hr hl, raise_withParams]
  · cases h
    rw [acceptCommand_outOfOrder (s := withParams q s) hr hl hs, raise_withParams, withParams_state]
  · have hq : body { withParams q s with busy := true } = flowWithParams q (body { s with busy := true }) :=
      hb q { s with busy := true }
    rw [acceptCommand_legal (s := withParams q s) hr hl, hq]
    obtain ⟨u, hu, rfl⟩ | hu := finish_eq_next.1 h <;> rw [hu] <;> rfl

theorem acceptCommand_keepsParams {i : Instr} {body : State → Flow} (hb : KeepsParams body) {s t : State}
    (h : acceptCommand i body s = .next t) : t.params = s.params := by
  rcases acceptCommand_cases i body s with ⟨_, ha⟩ | ⟨_, _, ha⟩ | ⟨_, _, ha⟩ | ⟨_, _, ha⟩ <;> rw [ha] at h
  · cases h; rfl
  · cases h; exact raise_params _ _ _
  · cases h; exact raise_params _ _ _
  · have hs : (body { s with busy := true }).state.params = s.params := hb _
    obtain ⟨u, hu, rfl⟩ | hu := finish_eq_next.1 h <;> rw [hu] at hs <;> exact hs

theorem runCode_ignoresParams (op : Lzw → Lzw) : OutcomeIgnoresParams (runCode op) := by
  intro q s t h
  rcases runCode_cases op s with ⟨hs, hc⟩ | ⟨hs, hc⟩ <;> rw [hc] at h <;> cases h
  · rw [runCode, withParams_stopped, hs]; rfl
  · rw [runCode, withParams_stopped, hs]; rfl

theorem runPut_ignoresParams (bytes : List Byte) : OutcomeIgnoresParams (runPut bytes) := by
  intro q s t h
  rcases runPut_cases bytes s with ⟨hs, hp⟩ | ⟨hs, hp⟩ <;> rw [hp] at h <;> cases h
  · simp [runPut, runMicro, hs]
  · simp [runPut, runMicro, hs, putBytes_ignoresParams bytes q s]

/-- Every instruction but HDR, and RUN that contains it, does the same under any values of GRAY and CRES. -/
theorem exec_ignoresParams {i : Instr} (hhdr : i ≠ .hdr) (hrun : i ≠ .run) : OutcomeIgnoresParams (exec i) := by
  cases i with
  | hdr => exact absurd rfl hhdr
  | run => exact absurd rfl hrun
  | cfg => exact acceptCommand_ignoresParams .cfg cfgBody_ignoresParams
  | rast => exact acceptCommand_ignoresParams .rast rastBody_ignoresParams
  | enc => exact acceptCommand_ignoresParams .enc encBody_ignoresParams
  | wfrm => exact acceptCommand_ignoresParams .wfrm wfrmBody_ignoresParams
  | adv => exact acceptCommand_ignoresParams .adv advBody_ignoresParams
  | close => exact acceptCommand_ignoresParams .close closeBody_ignoresParams
  | frame => exact acceptCommand_ignoresParams .frame frameBody_ignoresParams
  | reserved r p => exact acceptCommand_ignoresParams (.reserved r p) (ignoresParams_go (f := id) fun _ _ => rfl)
  | lit sym => exact runCode_ignoresParams (lzwEmit (litCode sym))
  | clear => exact runCode_ignoresParams lzwClear
  | dict c => exact runCode_ignoresParams (lzwEmit c)
  | eoi => intro q s t h; cases h
  | sig => exact runPut_ignoresParams sigBytes
  | lsd w h cres => exact runPut_ignoresParams (lsdBytes w h cres)
  | gct gray => exact runPut_ignoresParams (gctBytes gray)
  | appext => exact runPut_ignoresParams appextBytes
  | gce pause => exact runPut_ignoresParams (gceBytes pause)
  | imgdesc w h => exact runPut_ignoresParams (imgdescBytes w h)
  | mincode => exact runPut_ignoresParams mincodeBytes
  | subblock n data => exact runPut_ignoresParams (n :: data)
  | terminator => exact runPut_ignoresParams terminatorBytes
  | trailer => exact runPut_ignoresParams trailerBytes

/-- No instruction writes GRAY or CRES. -/
theorem exec_keepsParams {i : Instr} {s t : State} (h : exec i s = .next t) : t.params = s.params := by
  by_cases hhdr : i = .hdr
  · subst hhdr
    exact acceptCommand_keepsParams (i := .hdr) hdrBody_keepsParams h
  by_cases hrun : i = .run
  · subst hrun
    exact acceptCommand_keepsParams (i := .run) runBody_keepsParams h
  exact (exec_ignoresParams hhdr hrun).keepsParams h

/-- The header of other parameters: CRES stands in the flags byte, GRAY in the three bytes of the third colour. -/
theorem headerBytes_eq_set (q r : Params) (w h : BitVec 16) :
    headerBytes q w h =
      ((((headerBytes r w h).set 10 (lsdFlags q.cres)).set 19 q.gray).set 20 q.gray).set 21 q.gray := rfl

/-- Settles O30: the bodies are built from calls that never look at the parameters, HDR's Put of the header apart. -/
theorem grayAndCresReachOnlyTheHeader : Obligations.GrayAndCresReachOnlyTheHeader := by
  refine ⟨fun i s t q hhdr hrun h => exec_ignoresParams hhdr hrun q s t h, fun i s t h => exec_keepsParams h, ?_⟩
  intro q r w h k h10 h19 h20 h21
  rw [headerBytes_eq_set q r, List.getElem?_set_ne h21.symm, List.getElem?_set_ne h20.symm,
    List.getElem?_set_ne h19.symm, List.getElem?_set_ne h10.symm]

end Sys2Proof.Proofs

/-! PROOFS of the obligations that come from 10_state, first the LZW registers (R31 to R33, R39). -/

namespace Sys2Proof.Proofs

open Sys2Proof.Machine Sys2Proof.Laws

/-! ### The number of bits of a number -/

/-- `bitlen` is the least width that holds a number; every fact about it below comes from this one. -/
theorem bitlen_le_iff {n k : Nat} : bitlen n ≤ k ↔ n < 2 ^ k := by
  unfold bitlen
  split
  next h => simp [h]
  next h => exact Nat.log2_lt h

theorem lt_two_pow_bitlen (n : Nat) : n < 2 ^ bitlen n := bitlen_le_iff.1 le_rfl

/-- R39 (1) is kept by R164: the width grows exactly when the next number is the first that does not fit. -/
theorem bitlen_succ (n : Nat) : bitlen (n + 1) = if n + 1 = 2 ^ bitlen n then bitlen n + 1 else bitlen n := by
  have hlt : n < 2 ^ bitlen n := lt_two_pow_bitlen n
  have hmono : bitlen n ≤ bitlen (n + 1) := bitlen_le_iff.2 ((Nat.lt_succ_self n).trans (lt_two_pow_bitlen (n + 1)))
  split
  next h =>
    have hup : bitlen (n + 1) ≤ bitlen n + 1 := bitlen_le_iff.2 (by rw [pow_succ]; omega)
    have hne : ¬ bitlen (n + 1) ≤ bitlen n := by rw [bitlen_le_iff]; omega
    omega
  next h => exact le_antisymm (bitlen_le_iff.2 (by omega)) hmono

/-! ### What an entry of the code table says -/

/-- What a lookup finds is an entry. -/
theorem mem_of_read_eq_some {m : Memory} {a : Nat} {c : Code} (h : Memory.read m a = some c) : (a, c) ∈ m := by
  induction m with
  | nil => cases h
  | cons e rest ih =>
    unfold Memory.read at h
    split at h
    next heq => cases h; subst heq; exact List.mem_cons_self
    next => exact List.mem_cons_of_mem _ (ih h)

/-- An insert at an absent address adds one entry and keeps the others. -/
theorem write_perm_cons {m : Memory} {a : Nat} (c : Code) (h : Memory.read m a = none) :
    (Memory.write m a c).Perm ((a, c) :: m) := by
  induction m with
  | nil => exact List.Perm.refl _
  | cons e rest ih =>
    unfold Memory.read at h
    unfold Memory.write
    split at h
    next => cases h
    next hne =>
      rw [if_neg hne]
      split
      · exact List.Perm.refl _
      · exact ((ih h).cons e).trans (List.Perm.swap _ _ _)

/-- The number of the pair's code in an address of the table. -/
theorem ctAddress_div (p : Code) {sym : Nat} (h : sym ≤ 3) : ctAddress p sym / 4 = p.toNat := by
  unfold ctAddress
  omega

/-! ### What the invariants say about codes and the width -/

section LzwInv

variable {l : Lzw} (h : LzwInv l)
include h

/-- Every code in the table is a dictionary code below NEXT (R39 (2)). -/
theorem lzwInv_value_range {e : Nat × Code} (he : e ∈ l.ct) : 6 ≤ e.2.toNat ∧ e.2.toNat < l.next.toNat := by
  have hmem := h.ct_values.mem_iff.1 (List.mem_map_of_mem (f := fun e => e.2.toNat) he)
  have hnext := h.next_range.1
  simp only [List.mem_range'_1] at hmem
  omega

/-- NEXT - 1 is at least 5, so it is its bit length, and not the lower bound 3, that gives CW. -/
theorem lzwInv_cw_eq_bitlen : l.cw.toNat = bitlen (l.next.toNat - 1) := by
  have hnext := h.next_range.1
  have h3 : ¬ bitlen (l.next.toNat - 1) ≤ 2 := by rw [bitlen_le_iff]; omega
  rw [h.cw_eq]
  omega

theorem lzwInv_cw_range : 3 ≤ l.cw.toNat ∧ l.cw.toNat ≤ 12 := by
  have hnext := h.next_range
  refine ⟨h.cw_eq ▸ le_max_left _ _, ?_⟩
  rw [lzwInv_cw_eq_bitlen h, bitlen_le_iff]
  omega

/-- R39 (3): every code below NEXT fits the current width. -/
theorem lzwInv_lt_two_pow_cw {n : Nat} (hn : n < l.next.toNat) : n < 2 ^ l.cw.toNat := by
  have := lt_two_pow_bitlen (l.next.toNat - 1)
  rw [lzwInv_cw_eq_bitlen h]
  omega

end LzwInv

/-! ### The micro-operations keep the invariants -/

/-- R39 (4): LZW.EMIT of a code that fits leaves fewer than 8 bits waiting, and nothing above them. -/
theorem lzwEmit_acc_range {c : Code} {l : Lzw} (hacc : l.nb.toNat ≤ 7 ∧ l.acc.toNat < 2 ^ l.nb.toNat)
    (hc : c.toNat < 2 ^ l.cw.toNat) :
    (lzwEmit c l).nb.toNat = (l.nb.toNat + l.cw.toNat) % 8 ∧
      (lzwEmit c l).acc.toNat < 2 ^ (lzwEmit c l).nb.toNat := by
  obtain ⟨hnb, hlow⟩ := hacc
  have hnb' : (lzwEmit c l).nb.toNat = (l.nb.toNat + l.cw.toNat) % 8 := by
    simp only [lzwEmit, BitVec.toNat_ofNat]
    omega
  have hbits : l.acc.toNat + c.toNat * 2 ^ l.nb.toNat < 2 ^ (l.nb.toNat + l.cw.toNat) := by
    calc l.acc.toNat + c.toNat * 2 ^ l.nb.toNat
        < (c.toNat + 1) * 2 ^ l.nb.toNat := by rw [add_mul]; omega
      _ ≤ 2 ^ l.cw.toNat * 2 ^ l.nb.toNat := Nat.mul_le_mul_right _ hc
      _ = 2 ^ (l.nb.toNat + l.cw.toNat) := by rw [← pow_add, add_comm]
  have hsplit : 2 ^ (l.nb.toNat + l.cw.toNat) =
      256 ^ ((l.nb.toNat + l.cw.toNat) / 8) * 2 ^ ((l.nb.toNat + l.cw.toNat) % 8) := by
    rw [show (256 : Nat) = 2 ^ 8 from rfl, ← pow_mul, ← pow_add, Nat.div_add_mod]
  refine ⟨hnb', ?_⟩
  rw [hnb']
  calc (lzwEmit c l).acc.toNat
      ≤ (l.acc.toNat + c.toNat * 2 ^ l.nb.toNat) / 256 ^ ((l.nb.toNat + l.cw.toNat) / 8) := by
        simp only [lzwEmit, BitVec.toNat_ofNat]
        exact Nat.mod_le _ _
    _ < 2 ^ ((l.nb.toNat + l.cw.toNat) % 8) := Nat.div_lt_of_lt_mul (hsplit ▸ hbits)

/-- LZW.EMIT of a code that fits keeps the invariants. -/
theorem lzwInv_lzwEmit {l : Lzw} (h : LzwInv l) {c : Code} (hc : c.toNat < 2 ^ l.cw.toNat) : LzwInv (lzwEmit c l) := by
  obtain ⟨hnb, hacc⟩ := lzwEmit_acc_range h.acc_range hc
  exact { h with acc_range := ⟨by omega, hacc⟩ }

/-- LZW.INIT establishes the invariants (R161). -/
theorem lzwInv_lzwInit (l : Lzw) : LzwInv (lzwInit l) where
  next_range := by simp
  cw_eq := by rw [lzwInit_cw, lzwInit_next]; decide
  acc_range := by simp
  ct_wf := rfl
  ct_values := List.Perm.refl _
  ct_keys := nofun
  cur_ok := nofun

/-- With no match pending the invariants say nothing of CUR. -/
theorem lzwInv_withoutMatch {l : Lzw} (h : LzwInv l) : LzwInv { l with curv := false } := { h with cur_ok := nofun }

/-- A pending match on a code that CUR may hold. -/
theorem lzwInv_withCur {l : Lzw} (h : LzwInv { l with curv := false }) {c : Code} (v : Bool)
    (hc : c.toNat < l.next.toNat ∧ c ≠ 4 ∧ c ≠ 5) : LzwInv { l with cur := c, curv := v } :=
  { h with cur_ok := fun _ => hc }

/-- A symbol is a code that CUR may hold, whatever NEXT is. -/
theorem symbol_cur_ok {next sym : Nat} (hnext : 6 ≤ next) (hs : sym ≤ 3) :
    (BitVec.ofNat 12 sym).toNat < next ∧ BitVec.ofNat 12 sym ≠ 4 ∧ BitVec.ofNat 12 sym ≠ 5 := by
  refine ⟨?_, ?_, ?_⟩
  · simp only [BitVec.toNat_ofNat]; omega
  all_goals bv_omega

/-- LZW.CLEAR at the full code space: the clear code fits, and the table is as new (R165). -/
theorem lzwInv_lzwClear {l : Lzw} (h : LzwInv l) (hfull : l.next = 4096) :
    LzwInv { lzwClear l with curv := false } := by
  have h4 : (4 : Code).toNat < 2 ^ l.cw.toNat := lzwInv_lt_two_pow_cw h (by rw [hfull]; decide)
  exact { lzwInv_lzwInit l with acc_range := (lzwInv_lzwEmit h h4).acc_range }

/-- An insert with room in the code space: the new code is NEXT, above everything in the table, and the width is that of
R39 (1) again (R163, R164). -/
theorem lzwInv_lzwInsert {l : Lzw} {sym : Nat} (h : LzwInv l) (hroom : l.next ≠ 4096) (hv : l.curv = true) (hs : sym ≤ 3)
    (hr : Memory.read l.ct (ctAddress l.cur sym) = none) : LzwInv { lzwInsert sym l with curv := false } := by
  obtain ⟨hcur, hcur4, hcur5⟩ := h.cur_ok hv
  have hlo := h.next_range.1
  have hhi : l.next.toNat < 4096 := lt_of_le_of_ne h.next_range.2 fun he => hroom (BitVec.eq_of_toNat_eq he)
  have hnext : (l.next + 1).toNat = l.next.toNat + 1 := by bv_omega
  have hcode : (l.next.setWidth 12).toNat = l.next.toNat := by simp only [BitVec.toNat_setWidth]; omega
  have hperm := write_perm_cons (l.next.setWidth 12) hr
  refine
    { next_range := ?_, cw_eq := ?_, acc_range := h.acc_range, ct_wf := write_wf _ h.ct_wf (ctAddress_lt _ hs),
      ct_values := ?_, ct_keys := ?_, cur_ok := nofun }
  · show 6 ≤ (l.next + 1).toNat ∧ (l.next + 1).toNat ≤ 4096
    omega
  · show (if l.next.toNat = 2 ^ l.cw.toNat then l.cw + 1 else l.cw).toNat = max 3 (bitlen ((l.next + 1).toNat - 1))
    have hcw := lzwInv_cw_range h
    have hgrow := bitlen_succ (l.next.toNat - 1)
    rw [← lzwInv_cw_eq_bitlen h, Nat.sub_add_cancel (by omega)] at hgrow
    rw [hnext, Nat.add_sub_cancel, hgrow]
    split
    · rw [show (l.cw + 1).toNat = l.cw.toNat + 1 by bv_omega]; omega
    · omega
  · show ((Memory.write l.ct (ctAddress l.cur sym) (l.next.setWidth 12)).map fun e => e.2.toNat).Perm
      (List.range' 6 ((l.next + 1).toNat - 6))
    rw [hnext, show l.next.toNat + 1 - 6 = l.next.toNat - 6 + 1 by omega, List.range'_1_concat,
      show 6 + (l.next.toNat - 6) = l.next.toNat by omega]
    have hmap := hperm.map fun e => e.2.toNat
    rw [List.map_cons, hcode] at hmap
    exact hmap.trans ((h.ct_values.cons _).trans (List.perm_append_singleton _ _).symm)
  · intro e he
    obtain rfl | he := List.mem_cons.1 (hperm.mem_iff.1 he)
    · rw [ctAddress_div _ hs, hcode]
      exact ⟨hcur, fun h4 => hcur4 (BitVec.eq_of_toNat_eq h4), fun h5 => hcur5 (BitVec.eq_of_toNat_eq h5)⟩
    · exact h.ct_keys e he

/-- LZW.MISS keeps the invariants (R163): what it emits is the pending match, a code below NEXT. -/
theorem lzwInv_lzwMiss {l : Lzw} {sym : Nat} (h : LzwInv l) (hv : l.curv = true) (hs : sym ≤ 3)
    (hr : Memory.read l.ct (ctAddress l.cur sym) = none) : LzwInv (lzwMiss sym l) := by
  have hemit : LzwInv (lzwEmit l.cur l) := lzwInv_lzwEmit h (lzwInv_lt_two_pow_cw h (h.cur_ok hv).1)
  unfold lzwMiss
  split
  next hfull =>
    have hclear := lzwInv_lzwClear hemit hfull
    exact lzwInv_withCur hclear _ (symbol_cur_ok hclear.next_range.1 hs)
  next hroom =>
    have hinsert := lzwInv_lzwInsert hemit hroom hv hs hr
    exact lzwInv_withCur hinsert _ (symbol_cur_ok hinsert.next_range.1 hs)

/-- LZW.SYM of a symbol has a result, and it keeps the invariants (R162). -/
theorem lzwInv_lzwSym {l : Lzw} {sym : Nat} (h : LzwInv l) (hs : sym ≤ 3) :
    ∃ l', lzwSym sym l = some l' ∧ LzwInv l' := by
  rcases lzwSym_cases sym l with ⟨hbad, _⟩ | ⟨_, _, _, heq⟩ | ⟨_, _, _, c, hr, heq⟩ | ⟨_, hv, hr, _, heq⟩
  · omega
  · exact ⟨_, heq, lzwInv_withCur (lzwInv_withoutMatch h) _ (symbol_cur_ok h.next_range.1 hs)⟩
  · obtain ⟨hlo, hhi⟩ : 6 ≤ c.toNat ∧ c.toNat < l.next.toNat := lzwInv_value_range h (mem_of_read_eq_some hr)
    refine ⟨_, heq, lzwInv_withCur (lzwInv_withoutMatch h) _ ⟨hhi, ?_, ?_⟩⟩ <;> rintro rfl
    all_goals exact absurd hlo (by decide)
  · exact ⟨_, heq, lzwInv_lzwMiss h hv hs hr⟩

/-- Settles O40: a miss writes the code NEXT under the pair of the pending match, and the width follows NEXT. -/
theorem lzwSymKeepsTheRegisterInvariants : Obligations.LzwSymKeepsTheRegisterInvariants :=
  ⟨lzwInv_lzwInit, fun _ _ h hs => lzwInv_lzwSym h hs⟩

end Sys2Proof.Proofs

/-! PROOFS about what an instruction can write: a relation between the state before and after that every elementary
write respects is respected by every instruction. The obligations of 10_state on single registers (R21, R22, R24, R28,
R29) are instances of it. -/

namespace Sys2Proof.Proofs

open Sys2Proof.Machine Sys2Proof.Laws

/-! ### How a stretch of pseudocode ends -/

/-- Where a stretch of pseudocode goes on, the one holds of its state, and where the command is over, the other. -/
def Ends (onGo onHalt : State → Prop) : Flow → Prop
  | .go s => onGo s
  | .halt s => onHalt s

section Ends

variable {onGo onHalt : State → Prop}

@[simp] theorem ends_go {s : State} : Ends onGo onHalt (.go s) ↔ onGo s := Iff.rfl
@[simp] theorem ends_halt {s : State} : Ends onGo onHalt (.halt s) ↔ onHalt s := Iff.rfl

theorem ends_andThen {between : State → Prop} {f : Flow} {k : State → Flow} (hf : Ends between onHalt f)
    (hk : ∀ s, between s → Ends onGo onHalt (k s)) : Ends onGo onHalt (f.andThen k) := by
  cases f with
  | go s => exact hk s hf
  | halt s => exact hf

theorem ends_mono {onGo' onHalt' : State → Prop} {f : Flow} (hf : Ends onGo onHalt f) (hgo : ∀ s, onGo s → onGo' s)
    (hhalt : ∀ s, onHalt s → onHalt' s) : Ends onGo' onHalt' f := by
  cases f with
  | go s => exact hgo s hf
  | halt s => exact hhalt s hf

/-- A command is over with BUSY fallen, or as it halted (43_sequencer R230). -/
theorem ends_finish {f : Flow} {t : State} (hf : Ends onGo onHalt f) (ht : f.finish = .next t) :
    (∃ s, onGo s ∧ t = { s with busy := false }) ∨ onHalt t := by
  obtain ⟨s, rfl, rfl⟩ | rfl := finish_eq_next.1 ht
  · exact .inl ⟨s, hf, rfl⟩
  · exact .inr hf

end Ends

/-! ### Elementary writes -/

/-- The relation `R` of the states before and after is respected by every elementary write but those of the parameter and
derived registers and of FIDX; a fault entry may lead to `E` instead. -/
structure RespectsWrites (R : State → State → Prop) (E : State → Prop) : Prop where
  trans : ∀ {s t u}, R s t → R t u → R s u
  /-- The registers and the model's own fields that none of the statements here is about. -/
  work : ∀ (s : State) {state pix tx ty busy done opened lzw raster lzwb env waiting},
    R s { s with state := state, pix := pix, tx := tx, ty := ty, busy := busy, done := done, opened := opened, lzw := lzw,
                 raster := raster, lzwb := lzwb, env := env, waiting := waiting }
  puts : ∀ s bytes, R s (s.afterPuts bytes)
  raise : ∀ s cause info, cause ≠ .none → R s (s.raise cause info) ∨ E (s.raise cause info)

/-- FIDX may be counted up. -/
def AllowsFrameCount (R : State → State → Prop) : Prop := ∀ s : State, R s { s with fidx := s.fidx + 1 }

/-- The parameter and derived registers may be written. -/
def AllowsConfig (R : State → State → Prop) : Prop :=
  ∀ (s : State) {frames pause cell grid cols rows p w h},
    R s { s with frames := frames, pause := pause, cell := cell, grid := grid, cols := cols, rows := rows, p := p,
                 w := w, h := h }

/-- The commands whose bodies count FIDX. -/
def countsFrames (i : Instr) : Prop := i = .wfrm ∨ i = .frame ∨ i = .run

/-- The commands whose bodies latch the configuration. -/
def latchesConfig (i : Instr) : Prop := i = .cfg ∨ i = .run

/-- The configuration is latched in IDLE only (43_sequencer R231). -/
theorem legalState_of_latchesConfig {i : Instr} (h : latchesConfig i) : legalState i = some .idle := by
  obtain rfl | rfl := h <;> rfl

/-- A stretch of pseudocode respects the relation where it goes on, and where it halts it may have entered `E`. -/
def Respects (R : State → State → Prop) (E : State → Prop) (body : State → Flow) : Prop :=
  ∀ s, Ends (R s) (fun t => R s t ∨ E t) (body s)

theorem respects_go {R : State → State → Prop} {E : State → Prop} {f : State → State} (hf : ∀ s, R s (f s)) :
    Respects R E fun s => .go (f s) :=
  hf

section Respects

variable {R : State → State → Prop} {E : State → Prop} (hR : RespectsWrites R E)
include hR

theorem refl_of_respectsWrites (s : State) : R s s :=
  hR.work s

/-- A respected write before a stretch changes nothing of how it ends. -/
theorem ends_of_before {f : Flow} {s t : State} (hst : R s t) (hf : Ends (R t) (fun u => R t u ∨ E u) f) :
    Ends (R s) (fun u => R s u ∨ E u) f :=
  ends_mono hf (fun _ => hR.trans hst) fun _ => Or.imp_left (hR.trans hst)

theorem respects_andThen {f k : State → Flow} (hf : Respects R E f) (hk : Respects R E k) :
    Respects R E fun s => (f s).andThen k :=
  fun s => ends_andThen (hf s) fun t ht => ends_of_before hR ht (hk t)

/-- A respected write, and then a fault. -/
theorem raise_of_before {s t : State} (hst : R s t) {cause : Cause} (info : BitVec 64) (hc : cause ≠ .none) :
    R s (t.raise cause info) ∨ E (t.raise cause info) :=
  (hR.raise t cause info hc).imp_left (hR.trans hst)

/-! ### The environment calls -/

theorem log_respects (s : State) (c : PortCall) : R s (s.log c) :=
  hR.work s

theorem wait_respects (s : State) (port : Port) : R s (s.wait port) :=
  hR.work s

theorem release_respects (s : State) : R s s.release := by
  rw [release_eq]
  exact hR.work s

theorem openSink_respects : Respects R E openSink := by
  intro s
  rcases openSink_cases s with ⟨_, h⟩ | ⟨_, h⟩ | ⟨_, h⟩ <;> rw [h]
  · exact hR.work s
  · exact raise_of_before hR (log_respects hR s _) 0 nofun
  · exact .inl (hR.trans (log_respects hR s _) (wait_respects hR _ _))

theorem putBytes_respects (bytes : List Byte) : Respects R E (putBytes bytes) := by
  intro s
  cases h : putBytes bytes s with
  | go t =>
    obtain ⟨_, rfl⟩ := putBytes_eq_go.1 h
    exact hR.puts s bytes
  | halt t =>
    obtain ⟨k, b, _, _, ⟨_, rfl⟩ | ⟨_, rfl⟩⟩ := putBytes_eq_halt h
    · exact raise_of_before hR (hR.trans (hR.puts s _) (log_respects hR _ _)) _ nofun
    · exact .inl (hR.trans (hR.trans (hR.puts s _) (log_respects hR _ _)) (wait_respects hR _ _))

theorem xlateFrame_respects : Respects R E xlateFrame := by
  intro s
  rcases xlateFrame_cases s with ⟨tx, ty, _, h⟩ | ⟨_, h⟩ <;> rw [h]
  · exact hR.work s
  · exact .inl (hR.trans (log_respects hR s _) (wait_respects hR _ _))

theorem advBody_respects : Respects R E advBody := by
  intro s
  rcases advanceBy_cases 1 s with ⟨_, h⟩ | ⟨_, h⟩ <;> rw [advBody, h]
  · exact hR.work s
  · exact .inl (hR.trans (log_respects hR s _) (wait_respects hR _ _))

/-! ### The bodies of the commands -/

theorem rastLoop_respects (n : Nat) (done : List Symbol) : Respects R E (rastLoop n done) := by
  intro s
  have hframe : R s (rastLoop n done s).state := by
    rw [rastLoop_frame]
    exact hR.work s
  cases h : rastLoop n done s <;> rw [h] at hframe
  · exact hframe
  · exact .inl hframe

theorem rastBody_respects : Respects R E rastBody :=
  respects_andThen hR (xlateFrame_respects hR) <|
    respects_andThen hR
      (fun s => ends_of_before hR (hR.work s)
        (rastLoop_respects hR s.pixels [] { s with pix := 0 }))
      (respects_go fun s => hR.work s)

theorem encLoop_respects (symbols : List Symbol) : Respects R E (encLoop symbols) := by
  intro s
  rcases encLoop_cases symbols s with ⟨l, n, h⟩ | ⟨l, n, h⟩ <;> rw [h]
  · exact hR.work s
  · exact raise_of_before hR (hR.work s) _ nofun

theorem encFinish_respects : Respects R E encFinish := by
  intro s
  unfold encFinish
  cases lzwFin s.lzw with
  | none => exact hR.raise s _ _ nofun
  | some l => exact hR.work s

theorem encBody_respects : Respects R E encBody :=
  respects_andThen hR
    (fun s => ends_of_before hR (hR.work s)
      (encLoop_respects hR (rasterCells s.pixels 0 s.raster) { s with lzw := lzwInit s.lzw, pix := 0 }))
    (encFinish_respects hR)

theorem hdrBody_respects : Respects R E hdrBody :=
  respects_andThen hR (openSink_respects hR) <|
    respects_andThen hR (fun s => putBytes_respects hR (headerBytes s.params s.w s.h) s)
      (respects_go fun s => hR.work s)

theorem closeBody_respects : Respects R E closeBody :=
  respects_andThen hR (putBytes_respects hR trailerBytes)
    (respects_go fun s => hR.trans (release_respects hR s) (hR.work s.release))

theorem wfrmBody_respects (hf : AllowsFrameCount R) : Respects R E wfrmBody :=
  respects_andThen hR (fun s => putBytes_respects hR (frameBytes s.pause s.w s.h s.lzwb) s)
    (respects_go fun s => hR.trans (hf s) (hR.work _))

theorem cfgBody_respects (hc : AllowsConfig R) : Respects R E cfgBody := by
  intro s
  have hlatch : R s (latchConfig s) := hc s
  have hcanvas : R s s.configured := hc s
  unfold cfgBody
  simp only
  split
  · exact raise_of_before hR hlatch _ nofun
  · split
    · exact raise_of_before hR hlatch _ nofun
    · split
      · exact raise_of_before hR hlatch _ nofun
      · exact hR.trans hcanvas (hR.work s.configured)

theorem frameBody_respects (hf : AllowsFrameCount R) : Respects R E frameBody :=
  respects_andThen hR (respects_andThen hR (rastBody_respects hR) (encBody_respects hR)) (wfrmBody_respects hR hf)

theorem runLoop_respects (hf : AllowsFrameCount R) (fuel : Nat) : Respects R E (runLoop fuel) := by
  induction fuel with
  | zero => exact respects_go (refl_of_respectsWrites hR)
  | succ fuel ih =>
    intro s
    unfold runLoop
    split
    · refine respects_andThen hR (respects_andThen hR (frameBody_respects hR hf) fun t => ?_) ih s
      split
      · exact advBody_respects hR t
      · exact refl_of_respectsWrites hR t
    · exact refl_of_respectsWrites hR s

theorem runBody_respects (hf : AllowsFrameCount R) (hc : AllowsConfig R) : Respects R E runBody :=
  respects_andThen hR
    (respects_andThen hR (respects_andThen hR (cfgBody_respects hR hc) (hdrBody_respects hR)) fun s =>
      runLoop_respects hR hf (s.frames.toNat - s.fidx.toNat) s)
    (closeBody_respects hR)

/-! ### Whole instructions -/

theorem acceptCommand_respects {i : Instr} {body : State → Flow} {s t : State}
    (hb : legalState i = some s.state → Respects R E body) (h : acceptCommand i body s = .next t) : R s t ∨ E t := by
  rcases acceptCommand_cases i body s with ⟨_, ha⟩ | ⟨_, _, ha⟩ | ⟨_, _, ha⟩ | ⟨_, hl, ha⟩ <;> rw [ha] at h
  · cases h; exact .inl (refl_of_respectsWrites hR s)
  · cases h; exact hR.raise s _ _ nofun
  · cases h; exact hR.raise s _ _ nofun
  · have hbusy := ends_of_before hR (hR.work s) (hb hl { s with busy := true })
    obtain ⟨u, hu, rfl⟩ | ht := ends_finish hbusy h
    · exact .inl (hR.trans hu (hR.work u))
    · exact ht

theorem runCode_respects {op : Lzw → Lzw} {s t : State} (h : runCode op s = .next t) : R s t ∨ E t := by
  rcases runCode_cases op s with ⟨_, hc⟩ | ⟨_, hc⟩ <;> rw [hc] at h <;> cases h
  · exact .inl (refl_of_respectsWrites hR s)
  · exact .inl (hR.work s)

theorem runPut_respects {bytes : List Byte} {s t : State} (h : runPut bytes s = .next t) : R s t ∨ E t := by
  have hput := putBytes_respects hR bytes s
  rcases runPut_cases bytes s with ⟨_, hp⟩ | ⟨_, hp⟩ <;> rw [hp] at h <;> cases h
  · exact .inl (refl_of_respectsWrites hR s)
  · cases hs : putBytes bytes s <;> rw [hs] at hput
    · exact .inl hput
    · exact hput

/-- The body of every command respects the relation, if the relation allows what the command alone writes. -/
theorem commandBody_respects {i : Instr} {body : State → Flow} (hf : countsFrames i → AllowsFrameCount R)
    (hc : latchesConfig i → AllowsConfig R) (h : commandBody i = some body) : Respects R E body := by
  cases i with
  | cfg => cases h; exact cfgBody_respects hR (hc (.inl rfl))
  | hdr => cases h; exact hdrBody_respects hR
  | rast => cases h; exact rastBody_respects hR
  | enc => cases h; exact encBody_respects hR
  | wfrm => cases h; exact wfrmBody_respects hR (hf (.inl rfl))
  | adv => cases h; exact advBody_respects hR
  | close => cases h; exact closeBody_respects hR
  | frame => cases h; exact frameBody_respects hR (hf (.inr (.inl rfl)))
  | run => cases h; exact runBody_respects hR (hf (.inr (.inr rfl))) (hc (.inr rfl))
  | reserved => cases h; exact respects_go (refl_of_respectsWrites hR)
  | lit | clear | eoi | dict => cases h
  | sig | lsd | gct | appext | gce | imgdesc | mincode | subblock | terminator | trailer => cases h

/-- Every instruction respects a relation that the elementary writes respect. -/
theorem exec_respects {i : Instr} {s t : State} (hf : countsFrames i → AllowsFrameCount R)
    (hc : latchesConfig i → s.state = .idle → AllowsConfig R) (h : exec i s = .next t) : R s t ∨ E t := by
  rcases exec_forms i s with ⟨body, hb, he⟩ | ⟨c, op, _, _, he, _⟩ | ⟨_, he⟩ | ⟨bytes, _, he⟩ <;> rw [he] at h
  · refine acceptCommand_respects hR (fun hl => commandBody_respects hR hf (fun hi => hc hi ?_) hb) h
    exact Option.some.inj (hl.symm.trans (legalState_of_latchesConfig hi))
  · exact runCode_respects hR h
  · cases h
  · exact runPut_respects hR h

end Respects

/-! ### The fault record (R28) -/

/-- CAUSE, INFO and FAULT are as they were. -/
def SameRecord (s t : State) : Prop := t.cause = s.cause ∧ t.info = s.info ∧ t.fault = s.fault

/-- The core has entered FAULT with a cause. -/
def EnteredFault (t : State) : Prop := t.state = .fault ∧ t.fault = true ∧ t.cause ≠ .none

/-- Fault entry is the only writer of the fault record, and it writes a cause. -/
theorem sameRecord_respectsWrites : RespectsWrites SameRecord EnteredFault where
  trans := fun ⟨hc, hi, hf⟩ ⟨hc', hi', hf'⟩ => ⟨hc'.trans hc, hi'.trans hi, hf'.trans hf⟩
  work _ := ⟨rfl, rfl, rfl⟩
  puts _ _ := ⟨rfl, rfl, rfl⟩
  raise s cause info hcause := .inr ⟨raise_state s cause info, raise_fault s cause info, by rwa [raise_cause]⟩

/-- In CLOSED and FAULT no instruction changes anything (60_exceptions R270). -/
theorem exec_terminal {i : Instr} {s t : State} (hs : s.state.terminal = true) (h : exec i s = .next t) : t = s := by
  have hready : s.cmdReady = false := by simp [State.cmdReady, hs]
  have hstopped : s.stopped = true := by simp [State.stopped, hs]
  rcases exec_forms i s with ⟨body, _, he⟩ | ⟨c, op, _, _, he, _⟩ | ⟨_, he⟩ | ⟨bytes, _, he⟩ <;> rw [he] at h
  · rw [acceptCommand_notReady hready] at h; cases h; rfl
  · simp only [runCode, hstopped, if_true] at h; cases h; rfl
  · cases h
  · simp only [runPut, runMicro, hstopped, if_true] at h; cases h; rfl

/-- Settles O15: the record is written by fault entry alone, and in FAULT nothing runs. -/
theorem faultRecordIsWrittenOnce : Obligations.FaultRecordIsWrittenOnce := by
  intro i s t h
  by_cases hs : s.state = .fault
  · rw [exec_terminal (by rw [hs]; rfl) h]
    exact .inl ⟨rfl, rfl, rfl⟩
  · exact (exec_respects sameRecord_respectsWrites (fun _ _ => ⟨rfl, rfl, rfl⟩)
      (fun _ _ _ => ⟨rfl, rfl, rfl⟩) h).imp_right fun he => ⟨hs, he⟩

/-! ### Registers that only their own writers touch (R21, R22, R24) -/

/-- `view` reads the same before and after. -/
def SameView {α : Type} (view : State → α) (s t : State) : Prop := view t = view s

/-- A view that no elementary write changes. -/
theorem sameView_respectsWrites {α : Type} {view : State → α}
    (hwork : ∀ (s : State) {state pix tx ty busy done opened lzw raster lzwb env waiting},
      view { s with state := state, pix := pix, tx := tx, ty := ty, busy := busy, done := done, opened := opened, lzw := lzw,
                    raster := raster, lzwb := lzwb, env := env, waiting := waiting } = view s)
    (hputs : ∀ s bytes, view (s.afterPuts bytes) = view s)
    (hraise : ∀ s cause info, view (s.raise cause info) = view s) :
    RespectsWrites (SameView view) fun _ => False where
  trans h h' := Eq.trans h' h
  work := hwork
  puts := hputs
  raise s cause info _ := .inl (hraise s cause info)

/-- The parameter registers, the period and the canvas. -/
def configuration (s : State) :
    BitVec 32 × BitVec 16 × BitVec 16 × BitVec 16 × BitVec 16 × BitVec 16 × BitVec 17 × BitVec 16 × BitVec 16 :=
  (s.frames, s.pause, s.cell, s.grid, s.cols, s.rows, s.p, s.w, s.h)

@[simp] theorem configuration_raise (s : State) (cause : Cause) (info : BitVec 64) :
    configuration (s.raise cause info) = configuration s := by
  simp [configuration]

/-- Settles O19: only the latching of CFG writes them, and CFG and RUN are legal in IDLE only. -/
theorem configurationIsWrittenOnlyFromIdle : Obligations.ConfigurationIsWrittenOnlyFromIdle := by
  intro i s t h hcase
  have hview : RespectsWrites (SameView configuration) fun _ => False :=
    sameView_respectsWrites (fun _ => rfl) (fun _ _ => rfl) configuration_raise
  have hnot : latchesConfig i → s.state = .idle → AllowsConfig (SameView configuration) := by
    rintro (rfl | rfl) hidle <;> simp [hidle] at hcase
  simpa [SameView, configuration] using exec_respects hview (fun _ _ => rfl) hnot h

/-- Settles O29: FIDX is counted by WFRM's body alone. -/
theorem fidxIsWrittenOnlyByWfrm : Obligations.FidxIsWrittenOnlyByWfrm := by
  intro i s t h hwfrm hframe hrun
  have hview : RespectsWrites (SameView State.fidx) fun _ => False :=
    sameView_respectsWrites (fun _ => rfl) (fun _ _ => rfl) raise_fidx
  have hnot : countsFrames i → AllowsFrameCount (SameView State.fidx) := by
    rintro (hi | hi | hi)
    · exact absurd hi hwfrm
    · exact absurd hi hframe
    · exact absurd hi hrun
  exact (exec_respects hview hnot (fun _ _ _ => rfl) h).elim id False.elim

/-! ### OUTCNT (R29) -/

/-- OUTCNT is the length of OUT. -/
def CountsOut (s : State) : Prop := s.outcnt = BitVec.ofNat 64 s.out.length

/-- Put adds to OUT and to OUTCNT alike. -/
theorem countsOut_afterPuts {s : State} (h : CountsOut s) (bytes : List Byte) : CountsOut (s.afterPuts bytes) := by
  unfold CountsOut at h ⊢
  simp only [State.afterPuts, List.length_append, BitVec.ofNat_add, h]

theorem countsOut_respectsWrites : RespectsWrites (fun s t => CountsOut s → CountsOut t) fun _ => False where
  trans h h' := h' ∘ h
  work _ := id
  puts _ bytes h := countsOut_afterPuts h bytes
  raise s cause info _ := .inl fun h => by unfold CountsOut; rw [raise_outcnt, raise_out]; exact h

theorem exec_countsOut {i : Instr} {s t : State} (hs : CountsOut s) (h : exec i s = .next t) : CountsOut t :=
  (exec_respects countsOut_respectsWrites (fun _ _ => id) (fun _ _ _ => id) h).elim (· hs) False.elim

theorem step_countsOut {s t : State} (hs : CountsOut s) (h : step s = .next t) : CountsOut t := by
  rcases step_cases s with ⟨o, k, script, _, he⟩ | ⟨_, ⟨_, he⟩ | ⟨_, _, he⟩ | ⟨_,
    ⟨e, i, _, _, he⟩ | ⟨e, r, _, _, he⟩ | ⟨_, b, pins, script, _, he⟩ | ⟨_, _, he⟩⟩⟩ <;> rw [he] at h
  · cases h; rfl
  · cases h
  · cases h; exact hs
  · exact exec_countsOut (s := { s with slot := none }) hs h
  · cases h
  · exact exec_countsOut (s := s.afterAccept pins script) hs h
  · cases h; exact hs

/-- Settles O28: Put is the only writer of OUT and of OUTCNT, and it writes both or neither. -/
theorem outcntCountsTheAcceptedBytes : Obligations.OutcntCountsTheAcceptedBytes := by
  refine ⟨rfl, fun s t hs h => step_countsOut hs h, fun s b => ?_⟩
  rcases putByte_cases b s with ⟨ha, hp⟩ | ⟨ha, hp⟩ | ⟨ha, hp⟩ <;> rw [hp, ha]
  · simp [Flow.state, State.afterPuts]
  · simp [Flow.state]
  · simp [Flow.state]

end Sys2Proof.Proofs

/-! PROOF of the invariant of the reachable states (O10). A command is a sequence of stretches; between two of them the
core is settled (the invariant but for BUSY), inside one it is running (what a fault entry or a wait needs of it). -/

namespace Sys2Proof.Proofs

open Sys2Proof.Machine Sys2Proof.Laws

/-! ### The output file -/

/-- The header alone is a file of no frames up to its trailer. -/
theorem isOpenFile_header (q : Params) (pause w h : BitVec 16) : IsOpenFile q pause w h 0 (headerBytes q w h) :=
  ⟨[], rfl, nofun, by simp⟩

/-- One more frame (30_encoding R98). -/
theorem isOpenFile_append_frame {q : Params} {pause w h : BitVec 16} {n : Nat} {bytes payload : List Byte}
    (hfile : IsOpenFile q pause w h n bytes) (hp : payload ≠ []) :
    IsOpenFile q pause w h (n + 1) (bytes ++ frameBytes pause w h (chunk payload)) := by
  obtain ⟨frames, hlen, hframes, rfl⟩ := hfile
  refine ⟨frames ++ [frameBytes pause w h (chunk payload)], by simp [hlen], fun f hf => ?_,
    by rw [List.flatten_concat, List.append_assoc]⟩
  obtain hf | hf := List.mem_append.1 hf
  · exact hframes f hf
  · exact ⟨payload, hp, List.mem_singleton.1 hf⟩

/-- OUT of a file up to its trailer begins a complete file. -/
theorem outBegins_of_isOpenFile {s : State} {pause w h : BitVec 16} {n : Nat}
    (hfile : IsOpenFile s.params pause w h n s.out) : OutBegins s :=
  ⟨pause, w, h, n, _, ⟨_, hfile, rfl⟩, List.prefix_append _ _⟩

/-- What begins a file goes on doing so with fewer bytes. -/
theorem outBegins_afterPuts_take {s : State} {bytes : List Byte} (k : Nat) (h : OutBegins (s.afterPuts bytes)) :
    OutBegins (s.afterPuts (bytes.take k)) := by
  obtain ⟨pause, w, h, n, file, hfile, hout⟩ := h
  exact ⟨pause, w, h, n, file, hfile,
    ((List.prefix_append_right_inj s.out).2 (List.take_prefix k bytes)).trans hout⟩

/-! ### The canvas (R22) -/

/-- The clause on the canvas reads the configuration only. -/
theorem canvasOk_congr {s t : State} (h : CanvasOk s) (ht : configuration t = configuration s) : CanvasOk t := by
  simp only [configuration, Prod.mk.injEq] at ht
  obtain ⟨_, _, hcell, hgrid, hcols, hrows, hp, hw, hh⟩ := ht
  obtain ⟨period, period_pos, width, height, width_pos, height_pos⟩ := h
  constructor <;> simp only [hcell, hgrid, hcols, hrows, hp, hw, hh] <;> assumption

/-- A dimension that passes its check fits its register. -/
theorem dimOk_toNat {d : Nat} (h : dimOk d = true) : (BitVec.ofNat 16 d).toNat = d ∧ 1 ≤ d := by
  simp only [dimOk, Bool.and_eq_true, decide_eq_true_eq] at h
  refine ⟨?_, h.1⟩
  rw [BitVec.toNat_ofNat]
  omega

/-- What CFG leaves when its checks pass (43_sequencer R232): a period of 0 would make the width 0. -/
theorem canvasOk_configured {s : State} (hw : dimOk (canvasDim (latchConfig s).p s.env.pins.cols s.env.pins.grid) = true)
    (hh : dimOk (canvasDim (latchConfig s).p s.env.pins.rows s.env.pins.grid) = true) : CanvasOk s.configured := by
  obtain ⟨hw, hw1⟩ := dimOk_toNat hw
  obtain ⟨hh, hh1⟩ := dimOk_toNat hh
  have hperiod : (latchConfig s).p.toNat = s.env.pins.cell.toNat + s.env.pins.grid.toNat := by
    have hcell := s.env.pins.cell.isLt
    have hgrid := s.env.pins.grid.isLt
    simp only [latchConfig, BitVec.toNat_ofNat]
    omega
  have hpos : 1 ≤ (latchConfig s).p.toNat := by
    by_contra h0
    have hp : (latchConfig s).p.toNat = 0 := by omega
    simp only [canvasDim, hp, Nat.zero_mul] at hw1
    omega
  exact ⟨hperiod, hpos, hw, hh, hw1.trans hw.ge, hh1.trans hh.ge⟩

/-! ### The payload an ENC leaves (R36) -/

/-- PACK.FLUSH leaves nothing waiting and keeps the invariants (41_lzw R168). -/
theorem lzwInv_packFlush {l : Lzw} (h : LzwInv l) : LzwInv (packFlush l) := by
  unfold packFlush
  split
  · exact h
  · exact { h with acc_range := by simp }

/-- The code of the final match has at least 3 bits, and so leaves a byte or bits for one (41_lzw R166, R168). -/
theorem packFlush_lzwEmit_payload_ne_nil {l : Lzw} (h : LzwInv l) {c : Code} (hc : c.toNat < 2 ^ l.cw.toNat) :
    (packFlush (lzwEmit c l)).payload ≠ [] := by
  have hcw := (lzwInv_cw_range h).1
  have hnb := (lzwEmit_acc_range h.acc_range hc).1
  unfold packFlush
  split
  next h0 =>
    have hwhole : (l.nb.toNat + l.cw.toNat) % 8 = 0 := by rw [← hnb, h0]; rfl
    refine List.ne_nil_of_length_pos ?_
    simp only [lzwEmit, List.length_append, drainBytes_length]
    omega
  next => simp

theorem lzwFin_flush {l l' : Lzw} (h : LzwInv l) (hfin : lzwFin l = some l') :
    LzwInv (packFlush l') ∧ (packFlush l').payload ≠ [] := by
  unfold lzwFin at hfin
  split at hfin
  next => cases hfin
  next hv =>
    cases hfin
    have hc : l.cur.toNat < 2 ^ l.cw.toNat := lzwInv_lt_two_pow_cw h (h.cur_ok (by simpa using hv)).1
    exact ⟨lzwInv_packFlush (lzwInv_lzwEmit h hc), packFlush_lzwEmit_payload_ne_nil h hc⟩

/-! ### A core in the middle of a command, and between two stretches of one -/

/-- The clauses of the invariant that hold all the way through a command: enough to enter FAULT or to wait. -/
structure Running (s : State) : Prop where
  slot : s.slot = none
  waiting : s.waiting = none
  fault : s.fault = false
  done : s.done = false
  cause : s.cause = .none
  info : s.info = 0
  live : s.state.terminal = false
  outcnt : CountsOut s
  canvas : s.state.configured = true → CanvasOk s
  frames : s.state.configured = true → s.frames ≠ 0
  lzw : LzwInv s.lzw
  lzwb : s.state = .encoded → ∃ payload : List Byte, payload ≠ [] ∧ s.lzwb = chunk payload
  idle_fidx : s.state = .idle → s.fidx = 0
  ready_fidx : s.state = .ready → s.fidx = 0
  idle_out : s.state = .idle → s.out = []
  out_begins : OutBegins s

/-- The clauses that tie OPENED and OUT to STATE hold too: the invariant, but for BUSY. -/
structure Settled (s : State) : Prop extends Running s where
  opened : s.opened = s.state.holdsSink
  ready_out : s.state = .ready → s.out = []
  open_out : s.state.holdsSink = true →
    ∃ n, s.fidx = BitVec.ofNat 32 n ∧ IsOpenFile s.params s.pause s.w s.h n s.out

/-- Settled in a given STATE. -/
def SettledIn (st : SeqState) (s : State) : Prop := Settled s ∧ s.state = st

theorem ne_of_not_terminal {st : SeqState} (h : st.terminal = false) : st ≠ .fault ∧ st ≠ .closed := by
  constructor <;> rintro rfl <;> cases h

theorem ne_of_holdsSink {st : SeqState} (h : st.holdsSink = true) : st ≠ .idle ∧ st ≠ .ready := by
  constructor <;> rintro rfl <;> cases h

theorem configured_of_holdsSink {st : SeqState} (h : st.holdsSink = true) :
    st.configured = true ∧ st.terminal = false := by
  cases st with
  | isOpen | rastered | encoded => exact ⟨rfl, rfl⟩
  | idle | ready | closed | fault => cases h

/-- A ready core that satisfies the invariant is settled. -/
theorem settled_of_inv {s : State} (h : Inv s) (hr : s.cmdReady = true) : Settled s := by
  obtain ⟨hbusy, hlive⟩ := cmdReady_iff.1 hr
  obtain ⟨hfault, hclosed⟩ := ne_of_not_terminal hlive
  have hwait : s.waiting = none := by simpa [hbusy] using h.busy
  have hcause : s.cause = .none := h.cause.2 hfault
  exact
    { h with
      waiting := hwait, fault := by simpa [hfault] using h.fault, done := by simpa [hclosed] using h.done, cause := hcause,
      info := h.info hcause, live := hlive, outcnt := h.outcnt, opened := h.opened hwait,
      ready_out := fun hs => h.ready_out hs hwait, open_out := fun hs => h.open_out hs hwait }

/-- A settled core satisfies the invariant once BUSY falls. -/
theorem inv_of_settled {s : State} (h : Settled s) : Inv { s with busy := false } := by
  obtain ⟨hfault, hclosed⟩ := ne_of_not_terminal h.live
  exact
    { h.toRunning with
      busy := by simp [h.waiting], fault := by simp [h.fault, hfault], done := by simp [h.done, hclosed],
      cause := by simp [h.cause, hfault], info := fun _ => h.info, terminal := fun _ => h.waiting,
      opened := fun _ => h.opened, canvas := fun hc => canvasOk_congr (h.canvas hc) rfl,
      ready_out := fun hs _ => h.ready_out hs, open_out := fun hs _ => h.open_out hs,
      closed_out := fun hs => absurd hs hclosed }

/-- Fault entry from the middle of a command (60_exceptions R269). -/
theorem inv_raise {s : State} (h : Running s) {cause : Cause} (info : BitVec 64) (hc : cause ≠ .none) :
    Inv (s.raise cause info) where
  slot := by simp [h.slot]
  busy := by simp [h.waiting]
  fault := by simp
  done := by simp [h.done]
  cause := by simp [hc]
  info := by simp [hc]
  terminal := by simp [h.waiting]
  outcnt := by simpa [CountsOut] using h.outcnt
  opened := by simp [SeqState.holdsSink]
  canvas := by simp [SeqState.configured]
  frames := by simp [SeqState.configured]
  lzw := by simpa using h.lzw
  lzwb := by simp
  idle_fidx := by simp
  ready_fidx := by simp
  idle_out := by simp
  ready_out := by simp
  open_out := by simp [SeqState.holdsSink]
  closed_out := by simp
  out_begins := by simpa [OutBegins] using h.out_begins

/-- A request never answered in the middle of a command (70_reset R294). -/
theorem inv_wait {s : State} (h : Running s) (port : Port) : Inv (s.wait port) := by
  obtain ⟨hfault, hclosed⟩ := ne_of_not_terminal h.live
  exact
    { h with
      busy := rfl, fault := by simp [h.fault, hfault], done := by simp [h.done, hclosed],
      cause := by simp [h.cause, hfault], info := fun _ => h.info, terminal := by simp [h.live],
      opened := nofun, canvas := fun hc => canvasOk_congr (h.canvas hc) rfl, ready_out := nofun, open_out := nofun,
      closed_out := fun hs => absurd hs hclosed }

/-! ### Writes that keep a core running or settled -/

/-- The registers the invariant says nothing of, and OPENED, in the middle of a command. -/
theorem running_work {s : State} (h : Running s) {pix tx ty opened raster env} :
    Running { s with pix := pix, tx := tx, ty := ty, opened := opened, raster := raster, env := env } :=
  { h with canvas := fun hc => canvasOk_congr (h.canvas hc) rfl }

theorem running_log {s : State} (h : Running s) (c : PortCall) : Running (s.log c) :=
  running_work h

/-- Bytes that keep OUT the beginning of a file, out of IDLE. -/
theorem running_afterPuts {s : State} {bytes : List Byte} (h : Running s) (hs : s.state ≠ .idle)
    (hb : OutBegins (s.afterPuts bytes)) : Running (s.afterPuts bytes) :=
  { h with
    outcnt := countsOut_afterPuts h.outcnt bytes, canvas := fun hc => canvasOk_congr (h.canvas hc) rfl,
    idle_out := fun hi => absurd hi hs, out_begins := hb }

section Settled

variable {st : SeqState} {s : State} (h : SettledIn st s)
include h

theorem settled_work {pix tx ty busy raster env} :
    SettledIn st { s with pix := pix, tx := tx, ty := ty, busy := busy, raster := raster, env := env } :=
  ⟨{ h.1 with canvas := fun hc => canvasOk_congr (h.1.canvas hc) rfl }, h.2⟩

theorem settled_lzw {l : Lzw} (hl : LzwInv l) {pix} : SettledIn st { s with lzw := l, pix := pix } :=
  ⟨{ h.1 with lzw := hl, canvas := fun hc => canvasOk_congr (h.1.canvas hc) rfl }, h.2⟩

/-- From one STATE that holds the sink to another; ENCODED needs its LZWB. -/
theorem settled_holdsSink {st' : SeqState} (hst : st.holdsSink = true) (hst' : st'.holdsSink = true) {lzwb : List Byte}
    (hl : st' = .encoded → ∃ payload : List Byte, payload ≠ [] ∧ lzwb = chunk payload) :
    SettledIn st' { s with lzwb := lzwb, state := st' } := by
  obtain ⟨h, rfl⟩ := h
  have hconf := (configured_of_holdsSink hst).1
  obtain ⟨hidle, hready⟩ := ne_of_holdsSink hst'
  refine ⟨?_, rfl⟩
  exact
    { h with
      live := (configured_of_holdsSink hst').2
      canvas := fun _ => canvasOk_congr (h.canvas hconf) rfl
      frames := fun _ => h.frames hconf
      lzwb := hl
      idle_fidx := fun hi => absurd hi hidle
      ready_fidx := fun hi => absurd hi hready
      idle_out := fun hi => absurd hi hidle
      opened := h.opened.trans (hst.trans hst'.symm)
      ready_out := fun hi => absurd hi hready
      open_out := fun _ => h.open_out hst }

end Settled

/-- The end of HDR and of WFRM: the core comes to OPEN with whole frames in OUT. -/
theorem settled_isOpen {s : State} (h : Running s) (hconf : s.state.configured = true) (hopened : s.opened = true)
    {n : Nat} {fidx : BitVec 32} (hn : fidx = BitVec.ofNat 32 n)
    (hfile : IsOpenFile s.params s.pause s.w s.h n s.out) : SettledIn .isOpen { s with fidx := fidx, state := .isOpen } :=
  ⟨{ h with
     live := rfl, canvas := fun _ => canvasOk_congr (h.canvas hconf) rfl, frames := fun _ => h.frames hconf,
     lzwb := nofun, idle_fidx := nofun, ready_fidx := nofun, idle_out := nofun, opened := hopened, ready_out := nofun,
     open_out := fun _ => ⟨n, hn, hfile⟩ }, rfl⟩

/-! ### The environment calls -/

theorem openSink_inv {s : State} (h : Running s) :
    Ends (fun t => t = { s.log (.openSink .ok) with opened := true }) Inv (openSink s) := by
  rcases openSink_cases s with ⟨_, ho⟩ | ⟨_, ho⟩ | ⟨_, ho⟩ <;> rw [ho]
  · rfl
  · exact inv_raise (running_log h _) 0 nofun
  · exact inv_wait (running_log h _) _

/-- Put of bytes after which OUT would begin a file: so it does after fewer, if the sink takes only those. -/
theorem putBytes_inv {s : State} {bytes : List Byte} (h : Running s) (hs : s.state ≠ .idle)
    (hb : OutBegins (s.afterPuts bytes)) : Ends (fun t => t = s.afterPuts bytes) Inv (putBytes bytes s) := by
  cases hp : putBytes bytes s with
  | go t => exact (putBytes_eq_go.1 hp).2
  | halt t =>
    obtain ⟨k, b, _, _, hcase⟩ := putBytes_eq_halt hp
    have hrun : Running (s.afterPuts (bytes.take k)) := running_afterPuts h hs (outBegins_afterPuts_take k hb)
    obtain ⟨_, rfl⟩ | ⟨_, rfl⟩ := hcase
    · exact inv_raise (running_log hrun _) _ nofun
    · exact inv_wait (running_log hrun _) _

theorem xlateFrame_inv {st : SeqState} {s : State} (h : SettledIn st s) : Ends (SettledIn st) Inv (xlateFrame s) := by
  rcases xlateFrame_cases s with ⟨tx, ty, _, hx⟩ | ⟨_, hx⟩ <;> rw [hx]
  · exact settled_work h
  · exact inv_wait (running_log h.1.toRunning _) _

theorem advBody_inv {st : SeqState} {s : State} (h : SettledIn st s) : Ends (SettledIn st) Inv (advBody s) := by
  rcases advanceBy_cases 1 s with ⟨_, ha⟩ | ⟨_, ha⟩ <;> rw [advBody, ha]
  · exact settled_work h
  · exact inv_wait (running_log h.1.toRunning _) _

/-! ### The bodies of the commands -/

theorem rastLoop_inv {st : SeqState} (n : Nat) {done : List Symbol} {s : State} (h : SettledIn st s) :
    Ends (SettledIn st) Inv (rastLoop n done s) := by
  induction n generalizing done s with
  | zero => exact settled_work h
  | succ n ih =>
    unfold rastLoop
    rcases sample_cases (s.pix.toNat % s.w.toNat) (s.pix.toNat / s.w.toNat) s with
      ⟨_, hs⟩ | ⟨col, row, live, _, _, hs⟩ | ⟨col, row, _, _, hs⟩ <;> rw [hs]
    · exact ih (settled_work h)
    · exact ih (settled_work h)
    · exact inv_wait (running_work h.1.toRunning) .cell

theorem rastBody_inv {s : State} (h : SettledIn .isOpen s) : Ends (SettledIn .rastered) Inv (rastBody s) :=
  ends_andThen (xlateFrame_inv h) fun t ht =>
    ends_andThen (rastLoop_inv t.pixels (settled_work ht)) fun _ hu =>
      settled_holdsSink hu rfl rfl nofun

/-- No symbol of RASTER is above 3, so the loop never raises CONTRACT (60_exceptions R264). -/
theorem encLoop_inv {st : SeqState} (symbols : List Symbol) {s : State} (h : SettledIn st s) :
    Ends (SettledIn st) Inv (encLoop symbols s) := by
  induction symbols generalizing s with
  | nil => exact h
  | cons sym rest ih =>
    obtain ⟨l, hl, hinv⟩ := lzwInv_lzwSym h.1.lzw (symbol_le_three sym)
    unfold encLoop
    rw [hl]
    exact ih (settled_lzw h hinv)

theorem encFinish_inv {s : State} (h : SettledIn .rastered s) : Ends (SettledIn .encoded) Inv (encFinish s) := by
  unfold encFinish
  cases hfin : lzwFin s.lzw with
  | none => exact inv_raise h.1.toRunning _ nofun
  | some l =>
    obtain ⟨hl, hpayload⟩ := lzwFin_flush h.1.lzw hfin
    exact settled_holdsSink (settled_lzw h hl) rfl rfl fun _ => ⟨_, hpayload, rfl⟩

theorem encBody_inv {s : State} (h : SettledIn .rastered s) : Ends (SettledIn .encoded) Inv (encBody s) :=
  ends_andThen (encLoop_inv _ (settled_lzw h (lzwInv_lzwInit s.lzw))) fun _ => encFinish_inv

theorem wfrmBody_inv {s : State} (h : SettledIn .encoded s) : Ends (SettledIn .isOpen) Inv (wfrmBody s) := by
  obtain ⟨h, hs⟩ := h
  obtain ⟨payload, hp, hlzwb⟩ := h.lzwb hs
  obtain ⟨n, hn, hfile⟩ := h.open_out (by rw [hs]; rfl)
  have hfile' : IsOpenFile s.params s.pause s.w s.h (n + 1) (s.out ++ frameBytes s.pause s.w s.h s.lzwb) :=
    hlzwb ▸ isOpenFile_append_frame hfile hp
  have hbegins : OutBegins (s.afterPuts (frameBytes s.pause s.w s.h s.lzwb)) := outBegins_of_isOpenFile hfile'
  have hidle : s.state ≠ .idle := by rw [hs]; decide
  refine ends_andThen (putBytes_inv h.toRunning hidle hbegins) ?_
  rintro _ rfl
  exact settled_isOpen (running_afterPuts h.toRunning hidle hbegins) (by rw [hs]; rfl : s.state.configured = true)
    (h.opened.trans (by rw [hs]; rfl)) (by rw [hn, BitVec.ofNat_add]; rfl : s.fidx + 1 = BitVec.ofNat 32 (n + 1)) hfile'

theorem hdrBody_inv {s : State} (h : SettledIn .ready s) : Ends (SettledIn .isOpen) Inv (hdrBody s) := by
  obtain ⟨h, hs⟩ := h
  refine ends_andThen (openSink_inv h.toRunning) ?_
  rintro _ rfl
  have hrun : Running { s.log (.openSink .ok) with opened := true } :=
    running_work h.toRunning
  have hidle : s.state ≠ .idle := by rw [hs]; decide
  have hfile : IsOpenFile s.params s.pause s.w s.h 0 (s.out ++ headerBytes s.params s.w s.h) := by
    rw [h.ready_out hs]
    exact isOpenFile_header _ _ _ _
  have hbegins : OutBegins (State.afterPuts { s.log (.openSink .ok) with opened := true } (headerBytes s.params s.w s.h)) :=
    outBegins_of_isOpenFile hfile
  refine ends_andThen (putBytes_inv hrun hidle hbegins) ?_
  rintro _ rfl
  exact settled_isOpen (running_afterPuts hrun hidle hbegins) (by rw [hs]; rfl : s.state.configured = true) rfl
    (h.ready_fidx hs) hfile

/-- The end of CLOSE (42_gif_writer R204): whole frames and the trailer in OUT, the sink given back. -/
theorem inv_closed {s : State} (h : Running s) (hs : s.state.configured = true) {n : Nat}
    (hn : s.fidx = BitVec.ofNat 32 n) (hfile : IsFile s.params s.pause s.w s.h n s.out) :
    Inv { s.release with state := .closed, done := true, busy := false } where
  slot := by simp [h.slot]
  busy := by simp [h.waiting]
  fault := by simp [h.fault]
  done := by simp
  cause := by simp [h.cause]
  info := by simp [h.info]
  terminal := by simp [h.waiting]
  outcnt := by simpa [CountsOut] using h.outcnt
  opened := by simp [SeqState.holdsSink]
  canvas _ := canvasOk_congr (h.canvas hs) (by simp [configuration])
  frames _ := by simpa using h.frames hs
  lzw := by simpa using h.lzw
  lzwb := nofun
  idle_fidx := nofun
  ready_fidx := nofun
  idle_out := nofun
  ready_out := nofun
  open_out := nofun
  closed_out _ := ⟨n, by simpa using hn, by simpa using hfile⟩
  out_begins := by simpa [OutBegins] using h.out_begins

theorem closeBody_inv {s : State} (h : SettledIn .isOpen s) :
    Ends (fun t => Inv { t with busy := false }) Inv (closeBody s) := by
  obtain ⟨h, hs⟩ := h
  obtain ⟨n, hn, hfile⟩ := h.open_out (by rw [hs]; rfl)
  have hdone : IsFile s.params s.pause s.w s.h n (s.out ++ trailerBytes) := ⟨_, hfile, rfl⟩
  have hbegins : OutBegins (s.afterPuts trailerBytes) := ⟨_, _, _, n, _, hdone, List.prefix_refl _⟩
  have hidle : s.state ≠ .idle := by rw [hs]; decide
  refine ends_andThen (putBytes_inv h.toRunning hidle hbegins) ?_
  rintro _ rfl
  exact inv_closed (running_afterPuts h.toRunning hidle hbegins) (by rw [hs]; rfl : s.state.configured = true) hn hdone

/-- In IDLE the parameter registers may hold anything: the latched core is running still. -/
theorem running_latchConfig {s : State} (h : SettledIn .idle s) : Running (latchConfig s) := by
  obtain ⟨h, hs⟩ := h
  have hconf : ¬ s.state.configured = true := by rw [hs]; decide
  exact { h.toRunning with canvas := fun hc => absurd hc hconf, frames := fun hc => absurd hc hconf }

theorem cfgBody_inv {s : State} (h : SettledIn .idle s) : Ends (SettledIn .ready) Inv (cfgBody s) := by
  have hlatch := running_latchConfig h
  obtain ⟨h, hs⟩ := h
  unfold cfgBody
  simp only
  split
  next => exact inv_raise hlatch _ nofun
  next hw =>
    split
    next => exact inv_raise hlatch _ nofun
    next hh =>
      split
      next => exact inv_raise hlatch _ nofun
      next hframes =>
        rw [Bool.not_eq_true', Bool.not_eq_false] at hw hh
        have hcanvas : CanvasOk s.configured := canvasOk_configured hw hh
        refine ⟨?_, rfl⟩
        exact
          { hlatch with
            live := rfl, canvas := fun _ => canvasOk_congr hcanvas rfl, frames := fun _ => hframes, lzwb := nofun,
            idle_fidx := nofun, ready_fidx := fun _ => h.idle_fidx hs, idle_out := nofun,
            opened := h.opened.trans (by rw [hs]; rfl), ready_out := fun _ => h.idle_out hs, open_out := nofun }

theorem frameBody_inv {s : State} (h : SettledIn .isOpen s) : Ends (SettledIn .isOpen) Inv (frameBody s) :=
  ends_andThen (ends_andThen (rastBody_inv h) fun _ => encBody_inv) fun _ => wfrmBody_inv

theorem runLoop_inv (fuel : Nat) {s : State} (h : SettledIn .isOpen s) : Ends (SettledIn .isOpen) Inv (runLoop fuel s) := by
  induction fuel generalizing s with
  | zero => exact h
  | succ fuel ih =>
    unfold runLoop
    split
    · refine ends_andThen (ends_andThen (frameBody_inv h) fun t ht => ?_) fun _ => ih
      split
      · exact advBody_inv ht
      · exact ht
    · exact h

theorem runBody_inv {s : State} (h : SettledIn .idle s) : Ends (fun t => Inv { t with busy := false }) Inv (runBody s) :=
  ends_andThen (ends_andThen (ends_andThen (cfgBody_inv h) fun _ => hdrBody_inv) fun _ => runLoop_inv _) fun _ =>
    closeBody_inv

/-! ### Commands and steps -/

/-- Each command, from its legal STATE. -/
theorem commandBody_inv {i : Instr} {body : State → Flow} {s : State} (h : Settled s) (hb : commandBody i = some body)
    (hl : legalState i = some s.state) : Ends (fun t => Inv { t with busy := false }) Inv (body s) := by
  have hin : ∀ {st}, legalState i = some st → SettledIn st s := fun hst => ⟨h, Option.some.inj (hl.symm.trans hst)⟩
  have hdone : ∀ {st f}, Ends (SettledIn st) Inv f → Ends (fun t => Inv { t with busy := false }) Inv f := fun hf =>
    ends_mono hf (fun _ ht => inv_of_settled ht.1) fun _ => id
  cases i with
  | cfg => cases hb; exact hdone (cfgBody_inv (hin rfl))
  | hdr => cases hb; exact hdone (hdrBody_inv (hin rfl))
  | rast => cases hb; exact hdone (rastBody_inv (hin rfl))
  | enc => cases hb; exact hdone (encBody_inv (hin rfl))
  | wfrm => cases hb; exact hdone (wfrmBody_inv (hin rfl))
  | adv => cases hb; exact hdone (advBody_inv (hin rfl))
  | close => cases hb; exact closeBody_inv (hin rfl)
  | frame => cases hb; exact hdone (frameBody_inv (hin rfl))
  | run => cases hb; exact runBody_inv (hin rfl)
  | reserved => cases hl
  | lit | clear | eoi | dict => cases hb
  | sig | lsd | gct | appext | gce | imgdesc | mincode | subblock | terminator | trailer => cases hb

/-- A command byte, accepted or not, keeps the invariant. -/
theorem acceptCommand_inv {i : Instr} {body : State → Flow} (hb : commandBody i = some body) {s t : State} (h : Inv s)
    (hn : acceptCommand i body s = .next t) : Inv t := by
  rcases acceptCommand_cases i body s with ⟨_, ha⟩ | ⟨hr, _, ha⟩ | ⟨hr, _, ha⟩ | ⟨hr, hl, ha⟩ <;> rw [ha] at hn
  · cases hn; exact h
  · cases hn; exact inv_raise (settled_of_inv h hr).toRunning _ nofun
  · cases hn; exact inv_raise (settled_of_inv h hr).toRunning _ nofun
  · have hbusy : SettledIn s.state { s with busy := true } :=
      settled_work ⟨settled_of_inv h hr, rfl⟩
    obtain ⟨u, hu, rfl⟩ | ht := ends_finish (commandBody_inv hbusy.1 hb hl) hn
    · exact hu
    · exact ht

/-- A command byte decodes to a row with a body (30_encoding R91). -/
theorem commandBody_decodeCommand (b : Byte) : ∃ body, commandBody (decodeCommand b) = some body := by
  unfold decodeCommand
  repeat' split
  all_goals exact ⟨_, rfl⟩

/-- The invariant says nothing of the surroundings. -/
theorem inv_env {s : State} (h : Inv s) {env} : Inv { s with env := env } :=
  { h with canvas := fun hc => canvasOk_congr (h.canvas hc) rfl }

/-- Reset establishes the invariant, whatever the state was (70_reset R290). -/
theorem inv_afterReset (s : State) (o : OpenPlan) (k : SinkPlan) (script : List HostEvent) :
    Inv (s.afterReset o k script) where
  slot := rfl
  busy := rfl
  fault := rfl
  done := rfl
  cause := ⟨nofun, fun _ => rfl⟩
  info _ := rfl
  terminal := nofun
  outcnt := rfl
  opened _ := rfl
  canvas := nofun
  frames := nofun
  lzw := lzwInv_lzwInit Lzw.reset
  lzwb := nofun
  idle_fidx _ := rfl
  ready_fidx := nofun
  idle_out _ := rfl
  ready_out := nofun
  open_out := nofun
  closed_out := nofun
  out_begins := ⟨0, 0, 0, 0, _, ⟨_, isOpenFile_header _ 0 0 0, rfl⟩, List.nil_prefix⟩

/-- Settles O10: between the stretches of a command the core is settled, and each stretch keeps it so, enters FAULT or
waits. -/
theorem everyStepKeepsTheReachableInvariant : Obligations.EveryStepKeepsTheReachableInvariant := by
  intro s t h hn
  rcases step_cases s with ⟨o, k, script, _, he⟩ | ⟨_, ⟨_, he⟩ | ⟨_, _, he⟩ | ⟨_,
    ⟨e, i, hslot, _, _⟩ | ⟨e, r, _, _, he⟩ | ⟨_, b, pins, script, _, he⟩ | ⟨_, _, he⟩⟩⟩
  · cases he.symm.trans hn; exact inv_afterReset s o k script
  · cases he.symm.trans hn
  · cases he.symm.trans hn; exact h
  · cases h.slot.symm.trans hslot
  · cases he.symm.trans hn
  · obtain ⟨body, hb⟩ := commandBody_decodeCommand b
    exact acceptCommand_inv hb (inv_env h) ((exec_command hb _).symm.trans (he.symm.trans hn))
  · cases he.symm.trans hn; exact h

end Sys2Proof.Proofs

/-! PROOF that OUT only grows (O27): an instance of the elementary writes, of which Put alone touches OUT. -/

namespace Sys2Proof.Proofs

open Sys2Proof.Machine Sys2Proof.Laws

/-- OUT before is a prefix of OUT after. -/
def ExtendsOut (s t : State) : Prop := s.out <+: t.out

/-- Put appends at the end of OUT, and every other elementary write, fault entry included, leaves OUT as it is. -/
theorem extendsOut_respectsWrites : RespectsWrites ExtendsOut fun _ => False where
  trans := List.IsPrefix.trans
  work _ := List.prefix_rfl
  puts s bytes := List.prefix_append s.out bytes
  raise s cause info _ := .inl (by rw [ExtendsOut, raise_out])

/-- Settles O27: neither counting FIDX nor latching the configuration touches OUT, and the other writes extend it. -/
theorem outIsAppendOnly : Obligations.OutIsAppendOnly := by
  intro i s t h
  have hcount : AllowsFrameCount ExtendsOut := fun _ => List.prefix_rfl
  have hlatch : AllowsConfig ExtendsOut := fun _ => List.prefix_rfl
  exact (exec_respects extendsOut_respectsWrites (fun _ => hcount) (fun _ _ => hlatch) h).elim id False.elim

end Sys2Proof.Proofs

/-! PROOFS of the obligations that come from 30_encoding, first the command bytes (R91 to R93). -/

namespace Sys2Proof.Proofs

open Sys2Proof.Machine Sys2Proof.Laws

/-- Settles O3: each word is decoded by the tables' layout; the last has a flags byte that GCE (R104) does not have. -/
theorem specWordsDecodeAsListed : Obligations.SpecWordsDecodeAsListed :=
  ⟨rfl, rfl, rfl, rfl, rfl, rfl, rfl⟩

/-! ### Command bytes -/

/-- Concatenation as numbers: the high part counts in units of the low part's size. -/
theorem toNat_append_eq {m n : Nat} (x : BitVec m) (y : BitVec n) : (x ++ y).toNat = 2 ^ n * x.toNat + y.toNat := by
  rw [BitVec.toNat_append, ← Nat.shiftLeft_add_eq_or_of_lt y.isLt, Nat.shiftLeft_eq, Nat.mul_comm]

/-- A byte is its high half and its low half. -/
theorem halves_append (b : Byte) : b.extractLsb' 4 4 ++ b.extractLsb' 0 4 = b := by
  have h := BitVec.extractLsb'_append_extractLsb'_eq_extractLsb' (x := b) (start₂ := 4) (start₁ := 0) (len₁ := 4)
    (len₂ := 4) rfl
  exact h.trans BitVec.extractLsb'_eq_self

/-- The reserved bytes (R93): 00, and everything from 0A on. -/
theorem decodeCommand_reserved {b : Byte} (hb : b.toNat = 0 ∨ 10 ≤ b.toNat) :
    decodeCommand b = .reserved (b.extractLsb' 4 4) (b.extractLsb' 0 4) := by
  have hne : ∀ k : Byte, 1 ≤ k.toNat → k.toNat ≤ 9 → b ≠ k := by
    rintro k h1 h9 rfl
    omega
  unfold decodeCommand
  iterate 9 rw [if_neg (hne _ (by decide) (by decide))]

/-- The other bytes (R92), 01 to 09, are the bytes of commands, each with a legal STATE. -/
theorem decodeCommand_defined {b : Byte} (h1 : 1 ≤ b.toNat) (h9 : b.toNat < 10) :
    commandByte (decodeCommand b) = b ∧ ∃ legal, legalState (decodeCommand b) = some legal := by
  have htable : ∀ n < 10, 1 ≤ n → commandByte (decodeCommand (BitVec.ofNat 8 n)) = BitVec.ofNat 8 n ∧
      (legalState (decodeCommand (BitVec.ofNat 8 n))).isSome = true := by decide
  simpa [Option.isSome_iff_exists] using htable b.toNat h9 h1

/-- INFO of BADCMD as a number. -/
theorem badCmdInfo_eq (b : Byte) : badCmdInfo b = BitVec.ofNat 64 b.toNat :=
  (BitVec.ofNat_toNat 64 b).symm

/-- INFO of SEQ as a number: STATE stands above the byte. -/
theorem seqInfo_eq (st : SeqState) (b : Byte) : seqInfo st b = BitVec.ofNat 64 (256 * st.code.toNat + b.toNat) := by
  unfold seqInfo
  rw [← BitVec.ofNat_toNat, toNat_append_eq]
  rfl

/-- A ready core runs a reserved byte's row. -/
theorem exec_reserved {s : State} (hr : s.cmdReady = true) (r p : BitVec 4) :
    exec (.reserved r p) s = .next (s.raise .badCmd (BitVec.ofNat 64 (r ++ p).toNat)) := by
  rw [exec_command (i := .reserved r p) rfl, acceptCommand_reserved hr rfl, badCmdInfo_eq]
  rfl

/-- A ready core is presented a command's byte in a STATE the command is not legal in. -/
theorem exec_byteOutOfOrder {s : State} {b : Byte} {legal : SeqState} (hr : s.cmdReady = true)
    (hb : commandByte (decodeCommand b) = b) (hl : legalState (decodeCommand b) = some legal) (hs : s.state ≠ legal) :
    exec (decodeCommand b) s = .next (s.raise .seq (BitVec.ofNat 64 (256 * s.state.code.toNat + b.toNat))) := by
  obtain ⟨body, hbody⟩ := commandBody_decodeCommand b
  rw [exec_command hbody, acceptCommand_outOfOrder hr hl hs, hb, seqInfo_eq]

/-- Settles O12: the reserved bytes decode to the row without a legal STATE, and the bytes 01 to 09 to rows with one. -/
theorem reservedBytesRaiseBadCmd : Obligations.ReservedBytesRaiseBadCmd := by
  intro s hr
  refine ⟨fun b hb => ?_, fun b hhigh hlow hlow' => ?_, fun r p => ?_⟩
  · rw [decodeCommand_reserved (by omega), exec_reserved hr, halves_append]
  · obtain ⟨hbyte, legal, hl⟩ := decodeCommand_defined (b := b) (by omega) (by omega)
    exact ⟨legal, hl, exec_byteOutOfOrder hr hbyte hl⟩
  · rw [exec_reserved hr, toNat_append_eq]
    rfl

/-! ### The bytes of the records (R99 to R106) -/

/-- LE16 (00_scope R7) as numbers: the low byte, then the high byte. -/
theorem le16_eq (v : BitVec 16) : le16 v = [lowByte v, highByte v] := by
  have hlow : v.extractLsb' 0 8 = lowByte v := by
    apply BitVec.eq_of_toNat_eq
    simp [lowByte]
  have hhigh : v.extractLsb' 8 8 = highByte v := by
    apply BitVec.eq_of_toNat_eq
    simp [highByte, Nat.shiftRight_eq_div_pow]
  rw [le16, hlow, hhigh]

/-- The flags byte of the screen descriptor (R100) as a number. -/
theorem lsdFlags_eq (cres : BitVec 3) : lsdFlags cres = BitVec.ofNat 8 (0x81 + 16 * cres.toNat) := by
  apply BitVec.eq_of_toNat_eq
  simp only [lsdFlags, toNat_append_eq, BitVec.toNat_ofNat]
  have := cres.isLt
  omega

/-- LSD (R100), byte by byte. -/
theorem lsdBytes_eq (w h : BitVec 16) (cres : BitVec 3) : lsdBytes w h cres =
    [lowByte w, highByte w, lowByte h, highByte h, BitVec.ofNat 8 (0x81 + 16 * cres.toNat), 0x00, 0x00] := by
  rw [lsdBytes, le16_eq, le16_eq, lsdFlags_eq]
  rfl

/-- GCE (R104), byte by byte. -/
theorem gceBytes_eq (pause : BitVec 16) :
    gceBytes pause = [0x21, 0xF9, 0x04, 0x00, lowByte pause, highByte pause, 0x00, 0x00] := by
  rw [gceBytes, le16_eq]
  rfl

/-- IMGDESC (R105), byte by byte. -/
theorem imgdescBytes_eq (w h : BitVec 16) : imgdescBytes w h =
    [0x2C, 0x00, 0x00, 0x00, 0x00, lowByte w, highByte w, lowByte h, highByte h, 0x00] := by
  rw [imgdescBytes, le16_eq w, le16_eq h]
  rfl

/-- A frame is 19 bytes and its sub-blocks (42_gif_writer R203). -/
theorem frameBytes_length (pause w h : BitVec 16) (lzwb : List Byte) :
    (frameBytes pause w h lzwb).length = 19 + lzwb.length := by
  simp only [frameBytes, List.length_append]
  rfl

/-! ### HDR and WFRM when the sink takes every byte -/

/-- The lines of HDR, every request accepted (42_gif_writer R202). -/
theorem hdrBody_accepted {s : State} (hopen : s.env.openAnswer = .ok)
    (htakes : (s.log (.openSink .ok)).env.takes s.out.length 44) :
    let opened : State := { s.log (.openSink .ok) with opened := true }
    hdrBody s = .go { opened.afterPuts (headerBytes s.params s.w s.h) with state := .isOpen } := by
  intro opened
  have hs : openSink s = .go opened := by simpa [hopen, opened] using openSink_cases s
  have hput : putBytes (headerBytes s.params s.w s.h) opened = .go (opened.afterPuts (headerBytes s.params s.w s.h)) :=
    putBytes_eq_go.2 ⟨htakes, rfl⟩
  exact andThen_eq_go.2 ⟨_, hs, andThen_eq_go.2 ⟨_, hput, rfl⟩⟩

/-- The lines of WFRM, every byte accepted (42_gif_writer R203). -/
theorem wfrmBody_accepted {s : State}
    (htakes : s.env.takes s.out.length (frameBytes s.pause s.w s.h s.lzwb).length) :
    wfrmBody s = .go { s.afterPuts (frameBytes s.pause s.w s.h s.lzwb) with fidx := s.fidx + 1, state := .isOpen } :=
  andThen_eq_go.2 ⟨_, putBytes_eq_go.2 ⟨htakes, rfl⟩, rfl⟩

/-- A ready core runs the command and BUSY, which was 0, is 0 again at its end (43_sequencer R230). -/
theorem exec_legal_go {i : Instr} {body : State → Flow} {s t : State} (hb : commandBody i = some body)
    (hr : s.cmdReady = true) (hl : legalState i = some s.state) (hgo : body { s with busy := true } = .go t) :
    exec i s = .next { t with busy := s.busy } := by
  rw [exec_command hb, acceptCommand_legal hr hl, hgo, (cmdReady_iff.1 hr).1]
  rfl

/-- Settles O21: the sink opens, and the 44 bytes are those of the tables. -/
theorem hdrWritesTheHeader : Obligations.HdrWritesTheHeader := by
  intro s hr hs hopen htakes bytes
  have hbytes : headerBytes s.params s.w s.h = bytes := by
    rw [headerBytes, lsdBytes_eq]
    rfl
  have hgo := hdrBody_accepted (s := { s with busy := true }) hopen htakes
  have hexec := exec_legal_go (i := .hdr) rfl hr (by rw [hs]; rfl) hgo
  rw [← hbytes]
  exact hexec

/-- Settles O23: the bytes are those of the tables, followed by LZWB. -/
theorem wfrmWritesTheFrame : Obligations.WfrmWritesTheFrame := by
  intro s hr hs bytes htakes
  have hbytes : frameBytes s.pause s.w s.h s.lzwb = bytes := by
    rw [frameBytes, gceBytes_eq, imgdescBytes_eq]
    rfl
  have hgo := wfrmBody_accepted (s := { s with busy := true }) (hbytes ▸ htakes)
  have hexec := exec_legal_go (i := .wfrm) rfl hr (by rw [hs]; rfl) hgo
  have hcount : 19 + s.lzwb.length = (frameBytes s.pause s.w s.h s.lzwb).length := (frameBytes_length _ _ _ _).symm
  have hfidx : BitVec.ofNat 32 (s.fidx.toNat + 1) = s.fidx + 1 := by bv_omega
  rw [hcount, hfidx, ← hbytes]
  exact hexec

/-! ### The widths of a code stream (R95) -/

/-- R95 for a code with `before` codes since the last clear: a clear code after a full epoch only, with 12 bits, and
every other code in an epoch that is not full, with the width of its number. -/
def HasEpochWidth (before : Nat) (c : Code) (width : Nat) : Prop :=
  (c = 4 ∧ before = 4091 ∧ width = 12) ∨ (c ≠ 4 ∧ before < 4091 ∧ width = bitlen (before + 1 + 4))

/-- The number of codes since the last clear, after one more code. -/
def countCode (before : Nat) (c : Code) : Nat := if c = 4 then 0 else before + 1

/-- Every code of a list has its width by R95, when `before` codes since the last clear precede the list. -/
def HasEpochWidths : Nat → List (Code × Nat) → Prop
  | _, [] => True
  | before, (c, width) :: rest => HasEpochWidth before c width ∧ HasEpochWidths (countCode before c) rest

theorem sinceClear_concat (past : List (Code × Nat)) (c : Code) (width : Nat) :
    sinceClear (past ++ [(c, width)]) = countCode (sinceClear past) c := by
  unfold sinceClear countCode
  rw [List.reverse_concat, List.takeWhile_cons]
  by_cases h : c = 4
  · subst h
    rfl
  · rw [if_neg h, if_pos (bne_iff_ne.2 h), List.length_cons]

/-- The recursive reading of R95 says what the obligation says of each place of the list. -/
theorem hasEpochWidth_of_getElem? {codes : List (Code × Nat)} (past : List (Code × Nat)) {j : Nat} {c : Code}
    {width : Nat} (hw : HasEpochWidths (sinceClear past) codes) (hj : codes[j]? = some (c, width)) :
    HasEpochWidth (sinceClear (past ++ codes.take j)) c width := by
  induction codes generalizing past j with
  | nil => cases hj
  | cons e rest ih =>
    obtain ⟨hhead, htail⟩ := hw
    cases j with
    | zero =>
      cases hj
      simpa using hhead
    | succ j =>
      rw [← sinceClear_concat past e.1 e.2] at htail
      simpa using ih (past ++ [e]) htail hj

/-- The pending match goes out with the width of its number: NEXT counts the codes of the epoch from 6 on. -/
theorem hasEpochWidth_pending {l : Lzw} (h : LzwInv l) {c : Code} (hc : c ≠ 4) :
    HasEpochWidth (l.next.toNat - 6) c l.cw.toNat := by
  have hnext := h.next_range
  refine .inr ⟨hc, by omega, ?_⟩
  rw [lzwInv_cw_eq_bitlen h, show l.next.toNat - 6 + 1 + 4 = l.next.toNat - 1 by omega]

/-- At the full code space the clear code follows with 12 bits. -/
theorem hasEpochWidth_clear {l : Lzw} (h : LzwInv l) (hfull : l.next = 4096) :
    HasEpochWidth (l.next.toNat - 6 + 1) 4 l.cw.toNat := by
  refine .inl ⟨rfl, by rw [hfull]; rfl, ?_⟩
  rw [lzwInv_cw_eq_bitlen h, hfull]
  decide

/-- After every symbol a match is pending. -/
theorem lzwSym_curv {sym : Nat} {l l' : Lzw} (h : lzwSym sym l = some l') : l'.curv = true := by
  rcases lzwSym_cases sym l with ⟨_, he⟩ | ⟨_, _, _, he⟩ | ⟨_, hv, _, _, _, he⟩ | ⟨_, hv, _, _, he⟩ <;>
    cases he.symm.trans h
  · rfl
  · exact hv
  · unfold lzwMiss
    split <;> exact hv

theorem lzwMiss_next (sym : Nat) (l : Lzw) :
    (lzwMiss sym l).next = if l.next = 4096 then 6 else l.next + 1 := by
  unfold lzwMiss
  split <;> rfl

/-- What one LZW.SYM sends has the widths of R95, and NEXT counts what it sends. -/
theorem hasEpochWidths_symSends {sym : Nat} {l l' : Lzw} (h : LzwInv l) (hcur : l.cur ≠ 4)
    (hsym : lzwSym sym l = some l') {rest : List (Code × Nat)} (hrest : HasEpochWidths (l'.next.toNat - 6) rest) :
    HasEpochWidths (l.next.toNat - 6) (symSends sym l ++ rest) := by
  rcases lzwSym_cases sym l with ⟨_, he⟩ | ⟨_, _, hsend, he⟩ | ⟨_, _, hsend, _, _, he⟩ | ⟨_, _, _, hsend, he⟩ <;>
    cases he.symm.trans hsym <;> rw [hsend]
  · exact hrest
  · exact hrest
  · have hnext := h.next_range
    refine ⟨hasEpochWidth_pending h hcur, ?_⟩
    rw [lzwMiss_next] at hrest
    rw [countCode, if_neg hcur]
    split at hrest
    next hfull =>
      rw [if_pos hfull]
      exact ⟨hasEpochWidth_clear h hfull, hrest⟩
    next hroom =>
      rw [if_neg hroom]
      rwa [show (l.next + 1).toNat - 6 = l.next.toNat - 6 + 1 by bv_omega] at hrest

/-- The codes that the rest of an ENC sends have the widths of R95. -/
theorem hasEpochWidths_sendsFrom (symbols : List Symbol) {l : Lzw} (h : LzwInv l) (hcur : l.cur ≠ 4) :
    HasEpochWidths (l.next.toNat - 6) (sendsFrom symbols l) := by
  induction symbols generalizing l with
  | nil => exact ⟨hasEpochWidth_pending h hcur, trivial⟩
  | cons sym rest ih =>
    obtain ⟨l', hsym, hinv⟩ := lzwInv_lzwSym h (symbol_le_three sym)
    obtain ⟨_, hcur', _⟩ := hinv.cur_ok (lzwSym_curv hsym)
    unfold sendsFrom
    rw [hsym]
    exact hasEpochWidths_symSends h hcur hsym (ih hinv hcur')

/-- Settles O42: NEXT - 6 is the number of codes since the last clear, and CW is the bit length of NEXT - 1 (10_state
R39 (1)). -/
theorem codeWidthFollowsItsNumber : Obligations.CodeWidthFollowsItsNumber := by
  intro raster j c width hj
  have hstream : HasEpochWidths 0 (codeStream raster) :=
    hasEpochWidths_sendsFrom raster (lzwInv_lzwInit Lzw.reset) (by decide)
  exact hasEpochWidth_of_getElem? [] hstream hj

end Sys2Proof.Proofs

/-! PROOFS of the obligations that come from 40_sampler_rasterizer: SAMPLE (R141), the cell queries of a frame (R144)
and the canvas (R146). -/

namespace Sys2Proof.Proofs

open Sys2Proof.Machine Sys2Proof.Laws

/-! ### SAMPLE (R141) -/

/-- For a divisor of at least 1 the quotient is that of Euclidean division. -/
theorem fdiv_eq_ediv {b : Nat} (hb : 1 ≤ b) (a : Int) : fdiv a b = a / b := by
  rw [fdiv, if_neg (by omega), Int.fdiv_eq_ediv_of_nonneg a (by omega)]

/-- For a divisor of at least 1 the remainder is that of Euclidean division. -/
theorem fmod_eq_emod {b : Nat} (hb : 1 ≤ b) (a : Int) : fmod a b = a % b := by
  rw [fmod, if_neg (by omega), Int.fmod_eq_emod_of_nonneg a (by omega)]

/-- What a pixel is, in Euclidean division. -/
theorem pixelKind_eq {s : State} (hp : 1 ≤ s.p.toNat) (x y : Nat) :
    pixelKind s x y =
      if ((x : Int) + s.tx.toInt) % s.p.toNat < s.grid.toNat ∨ ((y : Int) + s.ty.toInt) % s.p.toNat < s.grid.toNat
      then .gridline
      else .inCell (((x : Int) + s.tx.toInt) / s.p.toNat) (((y : Int) + s.ty.toInt) / s.p.toNat) := by
  simp only [pixelKind, fmod_eq_emod hp, fdiv_eq_ediv hp]

theorem pixelSymbol_of_gridline {s : State} {x y : Nat} (h : pixelKind s x y = .gridline) :
    pixelSymbol s x y = some 2 := by
  simp only [pixelSymbol, h]

theorem pixelSymbol_of_inCell {s : State} {x y : Nat} {col row : Int} (h : pixelKind s x y = .inCell col row) :
    pixelSymbol s x y = (s.env.cellAnswer col row).map cellSymbol := by
  simp only [pixelSymbol, h]

/-- A gridline gives 2 and a cell 0 or 1. -/
theorem pixelSymbol_ne_three (s : State) (x y : Nat) : pixelSymbol s x y ≠ some 3 := by
  cases h : pixelKind s x y with
  | gridline => rw [pixelSymbol_of_gridline h]; decide
  | inCell col row =>
    rw [pixelSymbol_of_inCell h]
    rcases s.env.cellAnswer col row with _ | _ | _ <;> decide

/-- Settles O33: with P at least 1 the pixel's kind is that of Euclidean division. -/
theorem sampleFollowsTheFormula : Obligations.SampleFollowsTheFormula := by
  intro s x y hp ox oy
  refine ⟨?_, pixelSymbol_ne_three s x y⟩
  have hkind := pixelKind_eq hp x y
  split at hkind
  next hgrid => rw [pixelSymbol_of_gridline hkind, if_pos hgrid]
  next hcell => rw [pixelSymbol_of_inCell hkind, if_neg hcell]; rfl

/-! ### The canvas with translation (0, 0) (R146) -/

/-- With translation (0, 0) a pixel's offsets are its coordinates. -/
theorem pixelKind_of_zero_translation {s : State} (hp : 1 ≤ s.p.toNat) (htx : s.tx = 0) (hty : s.ty = 0) (x y : Nat) :
    pixelKind s x y =
      if x % s.p.toNat < s.grid.toNat ∨ y % s.p.toNat < s.grid.toNat then .gridline
      else .inCell ↑(x / s.p.toNat) ↑(y / s.p.toNat) := by
  rw [pixelKind_eq hp, htx, hty]
  simp only [BitVec.ofNat_eq_ofNat, BitVec.toInt_zero, Int.add_zero]
  norm_cast

/-- A coordinate of the canvas that is not on a gridline lies in a cell of the grid. -/
theorem div_lt_of_lt_canvasDim {p : BitVec 17} {cells grid : BitVec 16} {x : Nat} (hx : x < canvasDim p cells grid)
    (hgrid : grid.toNat ≤ x % p.toNat) : x / p.toNat < cells.toNat := by
  by_contra hge
  have hle : p.toNat * cells.toNat ≤ p.toNat * (x / p.toNat) := Nat.mul_le_mul_left _ (by omega)
  have hdiv := Nat.div_add_mod x p.toNat
  unfold canvasDim at hx
  omega

/-- The coordinates of a cell: `offset` pixels past the gridline that begins it. -/
theorem cell_coordinate {p : BitVec 17} {cells grid cell : BitVec 16} {index offset : Nat}
    (hp : p.toNat = cell.toNat + grid.toNat) (hindex : index < cells.toNat) (hoffset : offset < cell.toNat) :
    index * p.toNat + grid.toNat + offset < canvasDim p cells grid ∧
      (index * p.toNat + grid.toNat + offset) % p.toNat = grid.toNat + offset ∧
      (index * p.toNat + grid.toNat + offset) / p.toNat = index := by
  have hlt : grid.toNat + offset < p.toNat := by omega
  have hle : (index + 1) * p.toNat ≤ cells.toNat * p.toNat := Nat.mul_le_mul_right _ hindex
  rw [Nat.succ_mul] at hle
  rw [Nat.add_assoc, canvasDim, Nat.mul_comm p.toNat]
  refine ⟨by omega, ?_, ?_⟩
  · rw [Nat.mul_add_mod_self_right, Nat.mod_eq_of_lt hlt]
  · rw [Nat.mul_comm, Nat.mul_add_div (by omega), Nat.div_eq_of_lt hlt, Nat.add_zero]

/-- Settles O36: the canvas ends with the gridline after the last cell. -/
theorem zeroTranslationCoversTheGrid : Obligations.ZeroTranslationCoversTheGrid := by
  intro s hcanvas htx hty
  have hkind := pixelKind_of_zero_translation hcanvas.period_pos htx hty
  constructor
  · intro x y hx hy
    rw [hcanvas.width] at hx
    rw [hcanvas.height] at hy
    split
    next hgrid => rw [hkind, if_pos hgrid]
    next hcell =>
      exact ⟨by rw [hkind, if_neg hcell], div_lt_of_lt_canvasDim hx (by omega), div_lt_of_lt_canvasDim hy (by omega)⟩
  · intro col row dx dy hcol hrow hdx hdy x y
    obtain ⟨hx, hxmod, hxdiv⟩ := cell_coordinate hcanvas.period hcol hdx
    obtain ⟨hy, hymod, hydiv⟩ := cell_coordinate hcanvas.period hrow hdy
    refine ⟨hcanvas.width ▸ hx, hcanvas.height ▸ hy, ?_⟩
    rw [hkind, hxmod, hymod, hxdiv, hydiv, if_neg (by omega)]

/-! ### The cell queries of a frame (R144) -/

/-- In row-major order, the places of a raster whose column and row both count are the counting columns times the
counting rows. -/
theorem countP_range_mul (inColumn inRow : Nat → Bool) (w h : Nat) :
    (List.range (w * h)).countP (fun i => inColumn (i % w) && inRow (i / w)) =
      (List.range w).countP inColumn * (List.range h).countP inRow := by
  induction h with
  | zero => simp
  | succ h ih =>
    have hrow : (List.range w).countP (fun x => inColumn ((w * h + x) % w) && inRow ((w * h + x) / w)) =
        (List.range w).countP fun x => inColumn x && inRow h := by
      refine List.countP_congr fun x hx => ?_
      have hlt : x < w := List.mem_range.1 hx
      rw [Nat.mul_add_mod, Nat.mul_add_div (by omega), Nat.mod_eq_of_lt hlt, Nat.div_eq_of_lt hlt, Nat.add_zero]
    rw [Nat.mul_succ, List.range_add, List.countP_append, ih, List.countP_map, List.range_succ, List.countP_append,
      Nat.mul_add]
    refine congrArg _ (hrow.trans ?_)
    cases hq : inRow h <;> simp [hq]

/-- A coordinate of the canvas that is not on a gridline. -/
def offGridline (s : State) (t : BitVec 32) (x : Nat) : Bool := decide ¬ fmod (x + t.toInt) s.p.toNat < s.grid.toNat

/-- A pixel is in a cell exactly if neither of its coordinates is on a gridline. -/
theorem pixelKind_inCell_iff {s : State} {x y : Nat} :
    (∃ col row, pixelKind s x y = .inCell col row) ↔ (offGridline s s.tx x && offGridline s s.ty y) = true := by
  unfold pixelKind offGridline
  by_cases hx : fmod (x + s.tx.toInt) s.p.toNat < s.grid.toNat <;>
    by_cases hy : fmod (y + s.ty.toInt) s.p.toNat < s.grid.toNat <;> simp [hx, hy]

/-- Each pixel in a cell makes one query. -/
theorem pixelQueries_length (s : State) (n : Nat) :
    (pixelQueries s n).length = (List.range n).countP fun i =>
      offGridline s s.tx (i % s.w.toNat) && offGridline s s.ty (i / s.w.toNat) := by
  rw [pixelQueries, List.length_filterMap_eq_countP]
  refine List.countP_congr fun i _ => ?_
  rw [← pixelKind_inCell_iff]
  cases pixelKind s (i % s.w.toNat) (i / s.w.toNat) <;> simp

/-- A count over coordinates read as integers is the count over the coordinates. -/
theorem countP_range_cast (inCell : Int → Bool) (n : Nat) :
    (do let x ← List.range n; pure (x : Int) : List Int).countP inCell =
      (List.range n).countP fun x : Nat => inCell x := by
  simp [List.pure_def, List.bind_eq_flatMap, ← List.map_eq_flatMap, List.countP_map, Function.comp_def]

/-- Settles O35: a pixel asks its cell if its column and its row both lie inside cells. -/
theorem cellQueriesAreColumnsTimesRows : Obligations.CellQueriesAreColumnsTimesRows := by
  intro s
  rw [← List.countP_eq_length_filter, ← List.countP_eq_length_filter]
  rw [countP_range_cast, countP_range_cast]
  exact (pixelQueries_length s s.pixels).trans (countP_range_mul _ _ _ _)

end Sys2Proof.Proofs

/-! PROOFS about RAST and ENC: what the pixel loops of RAST do while every cell query is answered (O34), and what the
two commands leave unchanged in every next state (O55). -/

namespace Sys2Proof.Proofs

open Sys2Proof.Machine Sys2Proof.Laws

/-! ### The pixels of a frame in order -/

/-- The symbol of pixel `i` in row-major order (40_sampler R143), `none` if its cell query is never answered. -/
def symbolAt (s : State) (i : Nat) : Option Symbol := pixelSymbol s (i % s.w.toNat) (i / s.w.toNat)

/-- These are the symbols of the first pixels. -/
def AreFirstSymbols (s : State) (symbols : List Symbol) : Prop :=
  symbols.map some = (List.range symbols.length).map (symbolAt s)

/-- RAST's pixel loops in the middle: the first `k` pixels have been sampled, from the state `s` on. -/
def afterPixels (s : State) (k : Nat) : State :=
  { s with pix := BitVec.ofNat 32 k, env := { s.env with trace := (pixelQueries s k).reverse ++ s.env.trace } }

theorem areFirstSymbols_getElem? {s : State} {symbols : List Symbol} (h : AreFirstSymbols s symbols) {i : Nat}
    (hi : i < symbols.length) : symbols[i]? = symbolAt s i := by
  have hget := congrArg (·[i]?) h
  simpa [List.getElem?_range hi, List.getElem?_eq_getElem hi] using hget

theorem areFirstSymbols_concat {s : State} {symbols : List Symbol} {sym : Symbol} :
    AreFirstSymbols s (symbols ++ [sym]) ↔ AreFirstSymbols s symbols ∧ symbolAt s symbols.length = some sym := by
  simp [AreFirstSymbols, List.range_succ, eq_comm]

/-- What a pixel is does not depend on the pixels before it. -/
theorem pixelKind_afterPixels (s : State) (k x y : Nat) : pixelKind (afterPixels s k) x y = pixelKind s x y := rfl

/-- What a cell query is answered does not depend on the queries before it (40_sampler R142). -/
theorem cellAnswer_afterPixels (s : State) (k : Nat) (col row : Int) :
    (afterPixels s k).env.cellAnswer col row = s.env.cellAnswer col row := rfl

/-- Pixels that all have a symbol have a list of symbols. -/
theorem exists_areFirstSymbols {s : State} {k : Nat} (h : ∀ i < k, (symbolAt s i).isSome = true) :
    ∃ symbols, symbols.length = k ∧ AreFirstSymbols s symbols := by
  refine ⟨(List.range k).map fun i => (symbolAt s i).getD 0, by simp, ?_⟩
  rw [AreFirstSymbols, List.length_map, List.length_range, List.map_map]
  refine List.map_congr_left fun i hi => ?_
  obtain ⟨sym, hsym⟩ := Option.isSome_iff_exists.1 (h i (List.mem_range.1 hi))
  simp [hsym]

/-- Every pixel of an answered canvas has a symbol. -/
theorem symbolAt_isSome {s : State} (h : PixelsAnswered s) {i : Nat} (hi : i < s.pixels) :
    (symbolAt s i).isSome = true := by
  have hw : 0 < s.w.toNat := Nat.pos_of_mul_pos_right (Nat.zero_lt_of_lt hi)
  exact h _ _ (Nat.mod_lt i hw) (Nat.div_lt_of_lt_mul hi)

/-- PIX can count the pixels of any canvas. -/
theorem pixels_lt (s : State) : s.pixels < 2 ^ 32 := by
  have hw : s.w.toNat ≤ 65535 := by have := s.w.isLt; omega
  have hh : s.h.toNat ≤ 65535 := by have := s.h.isLt; omega
  calc s.pixels ≤ 65535 * 65535 := Nat.mul_le_mul hw hh
    _ < 2 ^ 32 := by decide

/-! ### The pixel loops of RAST -/

/-- The queries of one pixel more: none on a gridline, and in a cell that of the cell. -/
theorem pixelQueries_succ (s : State) (k : Nat) :
    pixelQueries s (k + 1) = pixelQueries s k ++
      match pixelKind s (k % s.w.toNat) (k / s.w.toNat) with
      | .gridline => []
      | .inCell col row => [.cell col row] := by
  rw [pixelQueries, List.range_succ, List.filterMap_append]
  cases h : pixelKind s (k % s.w.toNat) (k / s.w.toNat) <;> simp [pixelQueries, h]

/-- SAMPLE of the next pixel, its query answered if it makes one: the query is the next of the frame. -/
theorem sample_afterPixels {s : State} {k : Nat} {sym : Symbol} (hsym : symbolAt s k = some sym) :
    sample (k % s.w.toNat) (k / s.w.toNat) (afterPixels s k) =
      (some sym, { afterPixels s (k + 1) with pix := BitVec.ofNat 32 k }) := by
  rcases sample_cases (k % s.w.toNat) (k / s.w.toNat) (afterPixels s k) with
    ⟨hkind, hs⟩ | ⟨col, row, live, hkind, ha, hs⟩ | ⟨col, row, hkind, ha, _⟩
  · rw [pixelKind_afterPixels] at hkind
    obtain rfl : 2 = sym := Option.some.inj ((pixelSymbol_of_gridline hkind).symm.trans hsym)
    rw [hs]
    simp [afterPixels, pixelQueries_succ, hkind]
  · rw [pixelKind_afterPixels] at hkind
    rw [cellAnswer_afterPixels] at ha
    obtain rfl : cellSymbol live = sym := by simpa [symbolAt, pixelSymbol_of_inCell hkind, ha] using hsym
    rw [hs]
    simp [afterPixels, pixelQueries_succ, hkind, State.log]
  · rw [pixelKind_afterPixels] at hkind
    rw [cellAnswer_afterPixels] at ha
    simp [symbolAt, pixelSymbol_of_inCell hkind, ha] at hsym

/-- One turn of the loops, its query answered if it makes one. -/
theorem rastLoop_afterPixels {s : State} {k : Nat} {sym : Symbol} (hk : k < 2 ^ 32) (hsym : symbolAt s k = some sym)
    (m : Nat) (done : List Symbol) :
    rastLoop (m + 1) done (afterPixels s k) = rastLoop m (sym :: done) (afterPixels s (k + 1)) := by
  have hpix : (afterPixels s k).pix.toNat = k := Nat.mod_eq_of_lt hk
  have hcount : BitVec.ofNat 32 k + 1 = BitVec.ofNat 32 (k + 1) := (BitVec.ofNat_add k 1).symm
  have hsample : sample (k % (afterPixels s k).w.toNat) (k / (afterPixels s k).w.toNat) (afterPixels s k) = _ :=
    sample_afterPixels hsym
  rw [rastLoop, hpix, hsample]
  simp only [hcount]
  rfl

/-- The loops up to a pixel, every query before it answered (R143, R144). -/
theorem rastLoop_answered {s : State} (m : Nat) {symbols : List Symbol} (hlen : symbols.length ≤ 2 ^ 32)
    (h : AreFirstSymbols s symbols) :
    rastLoop (symbols.length + m) [] (afterPixels s 0) = rastLoop m symbols.reverse (afterPixels s symbols.length) := by
  induction symbols using List.reverseRecOn generalizing m with
  | nil => rw [List.length_nil, Nat.zero_add, List.reverse_nil]
  | append_singleton symbols sym ih =>
    obtain ⟨hinit, hsym⟩ := areFirstSymbols_concat.1 h
    rw [List.length_append, List.length_singleton] at hlen ⊢
    rw [Nat.add_assoc, ih (1 + m) (by omega) hinit, Nat.add_comm 1 m, List.reverse_append]
    exact rastLoop_afterPixels (by omega) hsym m symbols.reverse

/-- The cells RASTER holds after the loops: the symbols, and above them what it held before (R143). -/
theorem rasterStore_reverse (symbols old : List Symbol) :
    rasterStore symbols.reverse old = symbols ++ old.drop symbols.length := by
  rw [rasterStore, List.reverse_reverse, List.length_reverse]

/-- XLATE, answered: the request is seen and the answer is in TX and TY (40_sampler R140). -/
def translated (s : State) (tx ty : BitVec 32) : State := { s.log (.xlate s.fidx) with tx := tx, ty := ty }

theorem xlateFrame_answered {s : State} {tx ty : BitVec 32} (h : s.env.xlateAnswer s.fidx = some (tx, ty)) :
    xlateFrame s = .go (translated s tx ty) := by
  simpa [h, translated] using xlateFrame_cases s

/-- The lines of RAST, the translation and every cell query answered (R143, R144). -/
theorem rastBody_answered {s : State} {tx ty : BitVec 32} {symbols : List Symbol}
    (hxlate : s.env.xlateAnswer s.fidx = some (tx, ty)) (hlen : symbols.length = s.pixels)
    (h : AreFirstSymbols { s with tx := tx, ty := ty } symbols) :
    rastBody s = .go { s with
      tx := tx, ty := ty, pix := BitVec.ofNat 32 s.pixels, raster := symbols ++ s.raster.drop s.pixels,
      state := .rastered,
      env := { s.env with
        trace := (frameQueries { s with tx := tx, ty := ty }).reverse ++ .xlate s.fidx :: s.env.trace } } := by
  have hloop : rastLoop s.pixels [] { translated s tx ty with pix := 0 } =
      .go { afterPixels (translated s tx ty) s.pixels with raster := symbols ++ s.raster.drop s.pixels } := by
    have hbound : symbols.length ≤ 2 ^ 32 := hlen ▸ (pixels_lt s).le
    have hall := rastLoop_answered (s := translated s tx ty) 0 hbound h
    rw [rastLoop, rasterStore_reverse, hlen] at hall
    exact hall
  exact andThen_eq_go.2 ⟨_, xlateFrame_answered hxlate, andThen_eq_go.2 ⟨_, hloop, rfl⟩⟩

/-- Settles O34: every pixel has a symbol, so the loops reach the last. -/
theorem rastFillsTheRaster : Obligations.RastFillsTheRaster := by
  intro s tx ty hr hs hxlate hpixels
  obtain ⟨symbols, hlen, hsymbols⟩ := exists_areFirstSymbols fun i (hi : i < s.pixels) => symbolAt_isSome hpixels hi
  have hgo := rastBody_answered (s := { s with busy := true }) hxlate hlen hsymbols
  refine ⟨_, exec_legal_go (i := .rast) rfl hr (by rw [hs]; rfl) hgo, rfl, fun i hi => ?_, fun i hi => ?_⟩
  · show (symbols ++ s.raster.drop s.pixels)[i]? = _
    rw [List.getElem?_append_left (by omega), areFirstSymbols_getElem? hsymbols (by omega)]
    rfl
  · show (symbols ++ s.raster.drop s.pixels)[i]? = _
    rw [List.getElem?_append_right (by omega), hlen, List.getElem?_drop, Nat.add_sub_cancel' hi]

/-! ### What RAST and ENC leave unchanged -/

/-- RAST writes PIX, TX, TY, the RASTER cells of the frame, STATE, the trace, and what a fault or a wait writes. -/
def RastFrame (s t : State) : Prop :=
  t = { s with pix := t.pix, tx := t.tx, ty := t.ty, raster := t.raster, state := t.state, busy := t.busy,
               fault := t.fault, cause := t.cause, info := t.info, opened := t.opened, waiting := t.waiting,
               env := { s.env with trace := t.env.trace } } ∧
  ∀ i, s.pixels ≤ i → t.raster[i]? = s.raster[i]?

/-- ENC writes PIX, the LZW registers, LZWB, STATE, and what a fault writes. -/
def EncFrame (s t : State) : Prop :=
  t = { s with pix := t.pix, lzw := t.lzw, lzwb := t.lzwb, state := t.state, fault := t.fault, cause := t.cause,
               info := t.info, opened := t.opened, env := { s.env with trace := t.env.trace } }

/-- What holds of a state that did not change, of a fault entry, and however the body ends, holds after the command. -/
theorem acceptCommand_ends {after : State → Prop} {i : Instr} {body : State → Flow} {s t : State} (hsame : after s)
    (hraise : s.busy = false → ∀ cause info, after (s.raise cause info))
    (hbody : s.busy = false → Ends (fun u => after { u with busy := false }) after (body { s with busy := true }))
    (h : acceptCommand i body s = .next t) : after t := by
  rcases acceptCommand_cases i body s with ⟨_, ha⟩ | ⟨hr, _, ha⟩ | ⟨hr, _, ha⟩ | ⟨hr, _, ha⟩ <;> rw [ha] at h
  · cases h; exact hsame
  · cases h; exact hraise (cmdReady_iff.1 hr).1 _ _
  · cases h; exact hraise (cmdReady_iff.1 hr).1 _ _
  · obtain ⟨u, hu, rfl⟩ | ht := ends_finish (hbody (cmdReady_iff.1 hr).1) h
    · exact hu
    · exact ht

/-- A fault entry as an update of the fields it writes. -/
theorem raise_eq (s : State) (cause : Cause) (info : BitVec 64) :
    s.raise cause info =
      { s with cause := cause, info := info, opened := false, state := .fault, fault := true, busy := false,
               env := { s.env with trace := if s.opened then .release :: s.env.trace else s.env.trace } } := by
  rw [State.raise, release_eq]

theorem rasterStore_getElem?_above {done old : List Symbol} {i : Nat} (hi : done.length ≤ i) :
    (rasterStore done old)[i]? = old[i]? := by
  rw [rasterStore, List.getElem?_append_right (by simpa using hi), List.getElem?_drop, List.length_reverse,
    Nat.add_sub_cancel' hi]

/-- The loops write no RASTER cell past the last of their pixels. -/
theorem rastLoop_raster_above (n : Nat) (done : List Symbol) (s : State) {i : Nat} (hi : done.length + n ≤ i) :
    (rastLoop n done s).state.raster[i]? = s.raster[i]? := by
  induction n generalizing done s with
  | zero => exact rasterStore_getElem?_above hi
  | succ n ih =>
    have hnext (sym : Symbol) : (sym :: done).length + n ≤ i := by rw [List.length_cons]; omega
    rw [rastLoop]
    rcases sample_cases (s.pix.toNat % s.w.toNat) (s.pix.toNat / s.w.toNat) s with
      ⟨_, hs⟩ | ⟨col, row, live, _, _, hs⟩ | ⟨col, row, _, _, hs⟩ <;> rw [hs]
    · exact ih _ _ (hnext 2)
    · exact ih _ _ (hnext (cellSymbol live))
    · exact rasterStore_getElem?_above (by omega)

theorem rastFrame_trans {s t u : State} (hst : RastFrame s t) (htu : RastFrame t u) : RastFrame s u := by
  obtain ⟨ht, hraster⟩ := hst
  obtain ⟨hu, hraster'⟩ := htu
  have hpixels : t.pixels = s.pixels := by rw [ht]; rfl
  refine ⟨?_, fun i hi => (hraster' i (hpixels ▸ hi)).trans (hraster i hi)⟩
  rw [hu, ht]

/-- A write of BUSY is among those of a frame of RAST. -/
theorem rastFrame_busy (s : State) (b : Bool) : RastFrame s { s with busy := b } := ⟨rfl, fun _ _ => rfl⟩

theorem rastFrame_raise (s : State) (cause : Cause) (info : BitVec 64) : RastFrame s (s.raise cause info) := by
  rw [raise_eq]
  exact ⟨rfl, fun _ _ => rfl⟩

/-- The pixel loops over one frame, however they end. -/
theorem rastLoop_rastFrame (s : State) : RastFrame s (rastLoop s.pixels [] { s with pix := 0 }).state := by
  refine ⟨?_, fun i hi => rastLoop_raster_above s.pixels [] { s with pix := 0 } (by simpa using hi)⟩
  rw [rastLoop_frame]

/-- The lines of RAST, however they end. -/
theorem rastBody_ends (s : State) : Ends (RastFrame s) (RastFrame s) (rastBody s) := by
  rcases xlateFrame_cases s with ⟨tx, ty, _, hx⟩ | ⟨_, hx⟩ <;> rw [rastBody, hx]
  · have hloop : RastFrame s (rastLoop s.pixels [] { translated s tx ty with pix := 0 }).state :=
      rastFrame_trans ⟨rfl, fun _ _ => rfl⟩ (rastLoop_rastFrame (translated s tx ty))
    show Ends _ _ ((rastLoop s.pixels [] { translated s tx ty with pix := 0 }).andThen _)
    cases h : rastLoop s.pixels [] { translated s tx ty with pix := 0 } with
    | go u => rw [h] at hloop; exact rastFrame_trans hloop ⟨rfl, fun _ _ => rfl⟩
    | halt u => rw [h] at hloop; exact hloop
  · exact ⟨rfl, fun _ _ => rfl⟩

/-- A fault entry is among the writes of a frame of ENC, with BUSY left aside. -/
theorem encFrame_raise (s : State) (cause : Cause) (info : BitVec 64) :
    EncFrame { s with busy := false } (s.raise cause info) := by
  rw [raise_eq]
  rfl

/-- The lines of ENC, however they end, with BUSY left aside. -/
theorem encBody_ends (s : State) :
    Ends (fun u => EncFrame { s with busy := false } { u with busy := false }) (EncFrame { s with busy := false })
      (encBody s) := by
  unfold encBody
  rcases encLoop_cases (rasterCells s.pixels 0 s.raster) { s with lzw := lzwInit s.lzw, pix := 0 } with
    ⟨l, n, h⟩ | ⟨l, n, h⟩ <;> rw [h]
  · rw [andThen_go, encFinish]
    cases lzwFin l with
    | none => exact encFrame_raise { s with lzw := l, pix := n } _ _
    | some l' => rfl
  · exact encFrame_raise { s with lzw := l, pix := n } _ _

/-- Settles O55: the frames of the two bodies; the acceptance of a command writes BUSY besides, and ENC never waits. -/
theorem rastAndEncWriteOnlyTheirRegisters : Obligations.RastAndEncWriteOnlyTheirRegisters := by
  refine fun s t => ⟨fun h => ?_, fun h => ?_⟩
  · have hbody : Ends (fun u => RastFrame s { u with busy := false }) (RastFrame s)
        (rastBody { s with busy := true }) :=
      ends_mono (rastBody_ends { s with busy := true })
        (fun u hu => rastFrame_trans (rastFrame_trans (rastFrame_busy s true) hu) (rastFrame_busy u false))
        (fun u hu => rastFrame_trans (rastFrame_busy s true) hu)
    rw [exec_command (i := .rast) rfl] at h
    exact acceptCommand_ends (after := RastFrame s) (rastFrame_busy s s.busy) (fun _ => rastFrame_raise s)
      (fun _ => hbody) h
  · have hidle (hb : s.busy = false) : { s with busy := false } = s := by rw [← hb]
    rw [exec_command (i := .enc) rfl] at h
    refine acceptCommand_ends (after := EncFrame s) (Eq.refl s) (fun hb cause info => ?_) (fun hb => ?_) h
    · have hraise := encFrame_raise s cause info
      rw [hidle hb] at hraise
      exact hraise
    · have hbody := encBody_ends { s with busy := true }
      rw [hidle hb] at hbody
      exact hbody

end Sys2Proof.Proofs

/-! PROOF of the round trip at the level of codes (O44; 41_lzw_encoder R175). The encoder knows one string more than the
decoder: the one its last miss inserted, which is the decoder's previous string and the first symbol of the match that is
pending. Sending the pending match lets the decoder catch up. -/

namespace Sys2Proof.Proofs

open Sys2Proof.Machine Sys2Proof.Laws

/-! ### The strings of the codes -/

/-- The string of a code, where `strings` are those of the codes 6, 7, … in order. -/
def stringOf (strings : List (List Symbol)) (c : Nat) : Option (List Symbol) :=
  { Reader.start with table := strings }.lookup c

theorem lookup_eq_stringOf (r : Reader) (c : Nat) : r.lookup c = stringOf r.table c := rfl

/-- A symbol's code stands for the symbol alone (R162). -/
theorem stringOf_symbol (strings : List (List Symbol)) (sym : Symbol) :
    stringOf strings (BitVec.ofNat 12 sym.toNat).toNat = some [sym] := by
  have hsym := symbol_le_three sym
  have hcode : (BitVec.ofNat 12 sym.toNat).toNat = sym.toNat := by rw [BitVec.toNat_ofNat]; omega
  rw [stringOf, Reader.lookup, hcode, if_pos (by omega), BitVec.ofNat_toNat, BitVec.setWidth_eq]

/-- Before any dictionary code is assigned only symbols have codes. -/
theorem stringOf_nil_eq_some {c : Nat} {string : List Symbol} (h : stringOf [] c = some string) :
    c < 4 ∧ string = [BitVec.ofNat 2 c] := by
  rw [stringOf, Reader.lookup] at h
  split at h
  next hc => cases h; exact ⟨hc, rfl⟩
  next => split at h <;> cases h

/-- One string more: it belongs to the next code, and every other code keeps its string. -/
theorem stringOf_concat (strings : List (List Symbol)) (new : List Symbol) (c : Nat) :
    stringOf (strings ++ [new]) c = if c = 6 + strings.length then some new else stringOf strings c := by
  simp only [stringOf, Reader.lookup]
  by_cases h4 : c < 4
  · rw [if_pos h4, if_pos h4, if_neg (by omega)]
  by_cases h6 : c < 6
  · rw [if_neg h4, if_neg h4, if_pos h6, if_pos h6, if_neg (by omega)]
  rw [if_neg h4, if_neg h4, if_neg h6, if_neg h6]
  split
  next hc => rw [hc, Nat.add_sub_cancel_left, List.getElem?_concat_length]
  next hc =>
    by_cases hlt : c - 6 < strings.length
    · rw [List.getElem?_append_left hlt]
    · rw [List.getElem?_eq_none (by simp; omega), List.getElem?_eq_none (by omega)]

/-- A string that a code has, it keeps. -/
theorem stringOf_concat_of_eq_some {strings : List (List Symbol)} {c : Nat} {string : List Symbol}
    (h : stringOf strings c = some string) (new : List Symbol) : stringOf (strings ++ [new]) c = some string := by
  rw [stringOf_concat, if_neg, h]
  rintro rfl
  rw [stringOf, Reader.lookup, if_neg (by omega), if_neg (by omega), Nat.add_sub_cancel_left,
    List.getElem?_eq_none le_rfl] at h
  cases h

/-! ### The decoder at one code -/

/-- A first code outputs its symbol and assigns nothing (R175). -/
theorem reader_code_first {r : Reader} {c : Nat} (hprev : r.prev = none) (hc : c < 4) :
    r.code c = some ([BitVec.ofNat 2 c], { r with prev := some [BitVec.ofNat 2 c] }) := by
  rw [Reader.code, if_neg (by omega), hprev]
  exact if_pos hc

/-- A later code that the table holds. -/
theorem reader_code_known {r : Reader} {c : Nat} {before now : List Symbol} (hc : c ≠ 4) (hprev : r.prev = some before)
    (hnew : c ≠ 6 + r.table.length) (hnow : stringOf r.table c = some now) :
    r.code c = some (now, r.assign before now) := by
  simp only [Reader.code, if_neg hc, hprev, if_neg hnew, lookup_eq_stringOf, hnow]

/-- A later code that is the next to be assigned: the previous string and its own first symbol. -/
theorem reader_code_new {r : Reader} {before : List Symbol} (hprev : r.prev = some before) :
    r.code (6 + r.table.length) = some (before ++ before.take 1, r.assign before (before ++ before.take 1)) := by
  simp only [Reader.code, if_neg (show 6 + r.table.length ≠ 4 by omega), hprev, if_true]

/-- The decoder's width after it has caught up with the encoder, whose next code is `next` (R164, R175). -/
def caughtUpWidth (next : Nat) : Nat := min 12 (bitlen next)

/-- The decoder's assignment, with room for one more code. -/
theorem reader_assign_eq {r : Reader} {before now : List Symbol} {next : Nat} (hnext : 7 + r.table.length = next)
    (hroom : next ≤ 4096) (hwidth : r.width = bitlen (next - 1)) :
    r.assign before now =
      { table := r.table ++ [before ++ now.take 1], prev := some now, width := caughtUpWidth next } := by
  have hle : r.width ≤ 12 := by rw [hwidth, bitlen_le_iff]; omega
  have hgrow := bitlen_succ (next - 1)
  rw [← hwidth, Nat.sub_add_cancel (by omega)] at hgrow
  have hlast : 6 + r.table.length = 2 ^ r.width - 1 ↔ next = 2 ^ r.width := by
    have := Nat.one_le_two_pow (n := r.width)
    omega
  rw [Reader.assign, if_neg (by omega), caughtUpWidth, hgrow]
  simp only [hlast]
  congr 1
  split_ifs <;> omega

/-- Reading one code of the width the decoder expects. -/
theorem readCodes_cons {c : Code} {width : Nat} {rest : List (Code × Nat)} {r r' : Reader} {now : List Symbol}
    (hwidth : width = r.width) (hcode : r.code c.toNat = some (now, r')) :
    readCodes ((c, width) :: rest) r = (readCodes rest r').map (now ++ ·) := by
  rw [readCodes, if_pos hwidth, hcode]

/-- An address of the table names its pair (10_state R35). -/
theorem ctAddress_inj {p q : Code} {a b : Symbol} (h : ctAddress p a.toNat = ctAddress q b.toNat) : p = q ∧ a = b := by
  have ha := symbol_le_three a
  have hb := symbol_le_three b
  unfold ctAddress at h
  exact ⟨BitVec.eq_of_toNat_eq (by omega), BitVec.eq_of_toNat_eq (by omega)⟩

/-! ### The encoder ahead of the decoder -/

/-- `strings` are the strings of the encoder's codes 6, 7, …, `pending` is that of its pending match, and the decoder is
one assignment behind, unless no code has been sent since LZW.INIT or the last clear code. -/
structure Follows (l : Lzw) (r : Reader) (strings : List (List Symbol)) (pending : List Symbol) : Prop where
  next_eq : l.next.toNat = 6 + strings.length
  entry : ∀ (p : Code) (sym : Symbol) (c : Code), Memory.read l.ct (ctAddress p sym.toNat) = some c →
    ∃ string, stringOf strings p.toNat = some string ∧ stringOf strings c.toNat = some (string ++ [sym])
  cur : stringOf strings l.cur.toNat = some pending
  pending_ne : pending ≠ []
  behind : (r.prev = none ∧ r.table = [] ∧ strings = []) ∨
    ∃ before, before ≠ [] ∧ r.prev = some before ∧ strings = r.table ++ [before ++ pending.take 1]
  width : r.width = l.cw.toNat

/-- After LZW.INIT or LZW.CLEAR, with one symbol pending, the decoder is at its start (R161, R165). -/
theorem follows_start {l : Lzw} {sym : Symbol} (hnext : l.next = 6) (hcw : l.cw = 3) (hct : l.ct = [])
    (hcur : l.cur = BitVec.ofNat 12 sym.toNat) : Follows l Reader.start [] [sym] where
  next_eq := by rw [hnext]; rfl
  entry := by rw [hct]; nofun
  cur := by rw [hcur]; exact stringOf_symbol [] sym
  pending_ne := nofun
  behind := .inl ⟨rfl, rfl, rfl⟩
  width := by rw [hcw]; rfl

section Follows

variable {l : Lzw} {r : Reader} {strings : List (List Symbol)} {pending : List Symbol} {sym : Symbol}

/-- The code of the pending match gives the decoder the match, and the encoder's strings. -/
theorem reader_code_pending (h : LzwInv l) (hf : Follows l r strings pending) (hv : l.curv = true) :
    r.code l.cur.toNat = some (pending, ⟨strings, some pending, caughtUpWidth l.next.toNat⟩) := by
  obtain ⟨_, hcur4, _⟩ := h.cur_ok hv
  have hne : l.cur.toNat ≠ 4 := fun h4 => hcur4 (BitVec.eq_of_toNat_eq h4)
  have hwidth : r.width = bitlen (l.next.toNat - 1) := hf.width.trans (lzwInv_cw_eq_bitlen h)
  have hcur := hf.cur
  obtain ⟨hprev, htable, rfl⟩ | ⟨before, hbefore, hprev, hstrings⟩ := hf.behind
  · obtain ⟨hlt, rfl⟩ := stringOf_nil_eq_some hcur
    have hnext : l.next.toNat = 6 := hf.next_eq
    rw [reader_code_first hprev hlt, hnext, ← htable]
    rw [hnext] at hwidth
    have h3 : r.width = caughtUpWidth 6 := hwidth.trans (by decide)
    rw [← h3]
  · have hnext : 7 + r.table.length = l.next.toNat := by
      have hlen := congrArg List.length hstrings
      rw [List.length_append, List.length_singleton] at hlen
      have := hf.next_eq
      omega
    have hassign := reader_assign_eq (before := before) (now := pending) hnext h.next_range.2 hwidth
    rw [← hstrings] at hassign
    rw [← hassign]
    rw [hstrings, stringOf_concat] at hcur
    split at hcur
    next hnew =>
      have hpending : before ++ pending.take 1 = pending := Option.some.inj hcur
      have hfirst : pending.take 1 = before.take 1 := by
        rw [← hpending, List.take_append_of_le_length (List.length_pos_iff.2 hbefore)]
      rw [hnew, reader_code_new hprev, ← hfirst, hpending]
    next hold => exact reader_code_known hne hprev hold hcur

/-- A hit: the match grows by a symbol, and nothing is sent (R162). -/
theorem follows_hit (hf : Follows l r strings pending) {c : Code}
    (hr : Memory.read l.ct (ctAddress l.cur sym.toNat) = some c) :
    Follows { l with cur := c } r strings (pending ++ [sym]) := by
  obtain ⟨string, hstring, hc⟩ := hf.entry l.cur sym c hr
  obtain rfl : pending = string := Option.some.inj (hf.cur.symm.trans hstring)
  exact
    { hf with
      cur := hc, pending_ne := by simp
      behind := by rw [List.take_append_of_le_length (List.length_pos_iff.2 hf.pending_ne)]; exact hf.behind }

/-- A miss with room in the code space: the decoder has caught up, and the insert puts the encoder ahead again (R163). -/
theorem follows_insert (h : LzwInv l) (hf : Follows l r strings pending)
    (hinv : LzwInv (lzwMiss sym.toNat l)) (hroom : l.next ≠ 4096) :
    Follows (lzwMiss sym.toNat l) ⟨strings, some pending, caughtUpWidth l.next.toNat⟩ (strings ++ [pending ++ [sym]])
      [sym] := by
  have hmiss : lzwMiss sym.toNat l = { lzwInsert sym.toNat (lzwEmit l.cur l) with cur := BitVec.ofNat 12 sym.toNat } := by
    rw [lzwMiss, if_neg hroom]
  have hle := h.next_range.2
  have hlt : l.next.toNat < 4096 := lt_of_le_of_ne hle fun he => hroom (BitVec.eq_of_toNat_eq he)
  have hnext : (lzwMiss sym.toNat l).next.toNat = l.next.toNat + 1 := by
    rw [lzwMiss_next, if_neg hroom]
    bv_omega
  have hnew : (l.next.setWidth 12).toNat = 6 + strings.length := by
    rw [BitVec.toNat_setWidth, Nat.mod_eq_of_lt hlt, hf.next_eq]
  have hwidth : caughtUpWidth l.next.toNat = (lzwMiss sym.toNat l).cw.toNat := by
    have hcw := (lzwInv_cw_range hinv).2
    have heq := lzwInv_cw_eq_bitlen hinv
    rw [hnext, Nat.add_sub_cancel] at heq
    rw [caughtUpWidth, heq]
    omega
  refine
    { next_eq := ?_, entry := ?_, cur := ?_, pending_ne := nofun,
      behind := .inr ⟨pending, hf.pending_ne, rfl, rfl⟩, width := hwidth }
  · rw [hnext, hf.next_eq, List.length_append]
    rfl
  · intro p sym' c hread
    rw [hmiss] at hread
    change Memory.read (Memory.write l.ct (ctAddress l.cur sym.toNat) (l.next.setWidth 12)) _ = _ at hread
    by_cases ha : ctAddress p sym'.toNat = ctAddress l.cur sym.toNat
    · obtain ⟨rfl, rfl⟩ := ctAddress_inj ha
      rw [read_write_same] at hread
      cases hread
      exact ⟨pending, stringOf_concat_of_eq_some hf.cur _, by rw [stringOf_concat, if_pos hnew]⟩
    · rw [read_write_other _ _ ha] at hread
      obtain ⟨string, hstring, hc⟩ := hf.entry p sym' c hread
      exact ⟨string, stringOf_concat_of_eq_some hstring _, stringOf_concat_of_eq_some hc _⟩
  · rw [hmiss]
    exact stringOf_symbol _ sym

/-- A miss at the full code space: the clear code puts both at their start (R165). -/
theorem follows_clear (hfull : l.next = 4096) :
    Follows (lzwMiss sym.toNat l) Reader.start [] [sym] := by
  rw [lzwMiss, if_pos hfull]
  exact follows_start rfl rfl rfl rfl

/-- What one miss sends, and the decoder after it. -/
theorem readCodes_miss (h : LzwInv l) (hf : Follows l r strings pending) (hv : l.curv = true)
    (hread : Memory.read l.ct (ctAddress l.cur sym.toNat) = none) :
    ∃ r' strings', Follows (lzwMiss sym.toNat l) r' strings' [sym] ∧
      ∀ rest, readCodes ((l.cur, l.cw.toNat) :: (if l.next = 4096 then [(4, l.cw.toNat)] else []) ++ rest) r =
        (readCodes rest r').map (pending ++ ·) := by
  have hcode := reader_code_pending h hf hv
  by_cases hfull : l.next = 4096
  · refine ⟨_, _, follows_clear hfull, fun rest => ?_⟩
    have hcw : l.cw.toNat = caughtUpWidth l.next.toNat := by
      rw [lzwInv_cw_eq_bitlen h, hfull]
      decide
    have hclear : Reader.code ⟨strings, some pending, caughtUpWidth l.next.toNat⟩ (4 : Code).toNat =
        some ([], Reader.start) := rfl
    rw [if_pos hfull, List.cons_append, readCodes_cons hf.width.symm hcode, List.cons_append,
      readCodes_cons hcw hclear]
    simp
  · refine ⟨_, _, follows_insert h hf (lzwInv_lzwMiss h hv (symbol_le_three sym) hread) hfull, fun rest => ?_⟩
    rw [if_neg hfull, List.cons_append, readCodes_cons hf.width.symm hcode, List.nil_append]

end Follows

/-- The decoder outputs the pending match and the symbols still to come. -/
theorem readCodes_sendsFrom (symbols : List Symbol) {l : Lzw} {r : Reader} {strings : List (List Symbol)}
    {pending : List Symbol} (h : LzwInv l) (hv : l.curv = true) (hf : Follows l r strings pending) :
    readCodes (sendsFrom symbols l) r = some (pending ++ symbols) := by
  induction symbols generalizing l r strings pending with
  | nil =>
    rw [sendsFrom, readCodes_cons hf.width.symm (reader_code_pending h hf hv)]
    rfl
  | cons sym rest ih =>
    obtain ⟨l', hsym, hinv⟩ := lzwInv_lzwSym h (symbol_le_three sym)
    have hv' := lzwSym_curv hsym
    rw [sendsFrom, hsym, Option.elim_some]
    rcases lzwSym_cases sym.toNat l with
      ⟨_, he⟩ | ⟨_, hv0, _, _⟩ | ⟨_, _, hsend, c, hr, he⟩ | ⟨_, _, hr, hsend, he⟩
    · cases he.symm.trans hsym
    · rw [hv] at hv0
      cases hv0
    · cases he.symm.trans hsym
      rw [hsend, List.nil_append, ih hinv hv' (follows_hit hf hr), List.append_assoc]
      rfl
    · cases he.symm.trans hsym
      obtain ⟨r', strings', hf', hmiss⟩ := readCodes_miss h hf hv hr
      rw [hsend, hmiss, ih hinv hv' hf']
      rfl

/-! ### The first symbol -/

/-- The LZW unit after the first symbol of an ENC: nothing of what it held before is left (R161, R162). -/
def firstMatch (sym : Symbol) : Lzw := { lzwInit Lzw.reset with cur := BitVec.ofNat 12 sym.toNat, curv := true }

theorem lzwSym_lzwInit (sym : Symbol) (l : Lzw) : lzwSym sym.toNat (lzwInit l) = some (firstMatch sym) := by
  have h3 : ¬ 3 < sym.toNat := by have := symbol_le_three sym; omega
  rw [lzwSym, if_neg h3]
  rfl

theorem lzwInv_firstMatch (sym : Symbol) : LzwInv (firstMatch sym) := by
  obtain ⟨l, hsym, hinv⟩ := lzwInv_lzwSym (lzwInv_lzwInit Lzw.reset) (symbol_le_three sym)
  cases (lzwSym_lzwInit sym Lzw.reset).symm.trans hsym
  exact hinv

/-- The first symbol sends nothing. -/
theorem codeStream_cons (sym : Symbol) (rest : List Symbol) :
    codeStream (sym :: rest) = sendsFrom rest (firstMatch sym) := by
  rw [codeStream, sendsFrom, lzwSym_lzwInit]
  rfl

/-- Settles O44: after the first symbol it alone is pending and the decoder is at its start; from there the decoder
follows the encoder. -/
theorem codeStreamDecodesToTheRaster : Obligations.CodeStreamDecodesToTheRaster := by
  intro raster hne
  cases raster with
  | nil => exact absurd rfl hne
  | cons sym rest =>
    rw [codeStream_cons]
    exact readCodes_sendsFrom rest (lzwInv_firstMatch sym) rfl (follows_start rfl rfl rfl rfl)

end Sys2Proof.Proofs

/-! PROOFS about what ENC leaves (41_lzw_encoder R160 to R174): the codes it sends (O43), the bits LZW.EMIT packs (O41),
and with them LZWB (O37, O38, O46). -/

namespace Sys2Proof.Proofs

open Sys2Proof.Machine Sys2Proof.Laws

/-! ### The codes an ENC sends (R169, 30_encoding R108) -/

/-- A code that an ENC may send: not end-of-information, and below 2^width for a width of 3 to 12. -/
def Sendable (e : Code × Nat) : Prop := e.1 ≠ 5 ∧ 3 ≤ e.2 ∧ e.2 ≤ 12 ∧ e.1.toNat < 2 ^ e.2

/-- A code below NEXT fits CW (10_state R39 (3)). -/
theorem sendable_of_lt_next {l : Lzw} (h : LzwInv l) {c : Code} (hc : c.toNat < l.next.toNat) (h5 : c ≠ 5) :
    Sendable (c, l.cw.toNat) :=
  ⟨h5, (lzwInv_cw_range h).1, (lzwInv_cw_range h).2, lzwInv_lt_two_pow_cw h hc⟩

theorem sendable_symSends {l : Lzw} (h : LzwInv l) {sym : Nat} (hs : sym ≤ 3) : ∀ e ∈ symSends sym l, Sendable e := by
  rcases lzwSym_cases sym l with ⟨hbad, _⟩ | ⟨_, _, hsend, _⟩ | ⟨_, _, hsend, _⟩ | ⟨_, hv, _, hsend, _⟩
  · omega
  · rw [hsend]; nofun
  · rw [hsend]; nofun
  · obtain ⟨hcur, _, hcur5⟩ := h.cur_ok hv
    have hclear : ∀ e ∈ (if l.next = 4096 then [((4 : Code), l.cw.toNat)] else []), Sendable e := by
      split
      next hfull =>
        rw [List.forall_mem_singleton]
        exact sendable_of_lt_next h (by rw [hfull]; decide) (by decide)
      next => nofun
    rw [hsend, List.forall_mem_cons]
    exact ⟨sendable_of_lt_next h hcur hcur5, hclear⟩

theorem sendable_sendsFrom (symbols : List Symbol) {l : Lzw} (h : LzwInv l) (hcur : l.cur.toNat < l.next.toNat)
    (h5 : l.cur ≠ 5) : ∀ e ∈ sendsFrom symbols l, Sendable e := by
  induction symbols generalizing l with
  | nil => exact List.forall_mem_singleton.2 (sendable_of_lt_next h hcur h5)
  | cons sym rest ih =>
    obtain ⟨l', hsym, hinv⟩ := lzwInv_lzwSym h (symbol_le_three sym)
    obtain ⟨hcur', _, h5'⟩ := hinv.cur_ok (lzwSym_curv hsym)
    rw [sendsFrom, hsym, List.forall_mem_append]
    exact ⟨sendable_symSends h (symbol_le_three sym), ih hinv hcur' h5'⟩

theorem sendable_codeStream (raster : List Symbol) : ∀ e ∈ codeStream raster, Sendable e :=
  sendable_sendsFrom raster (lzwInv_lzwInit Lzw.reset) (by decide) (by decide)

/-- Settles O43: CUR is below NEXT and never 5, and so is what LZW.MISS and LZW.FIN send. -/
theorem noCodeIsEoiAndEveryCodeFits : Obligations.NoCodeIsEoiAndEveryCodeFits :=
  fun raster c width he => sendable_codeStream raster (c, width) he

/-! ### The bits packed so far (R167, 20_memory R66) -/

/-- The bytes out and the accumulator as one number, the first byte lowest. -/
def packedNumber (l : Lzw) : Nat := bytesNumber l.payload + 256 ^ l.payload.length * l.acc.toNat

/-- The number of bits out and in the accumulator. -/
def packedBits (l : Lzw) : Nat := 8 * l.payload.length + l.nb.toNat

/-- The ranges of NB and ACC that LZW.EMIT starts from and keeps (10_state R33). -/
def AccRange (l : Lzw) : Prop := l.nb.toNat ≤ 7 ∧ l.acc.toNat < 2 ^ l.nb.toNat

theorem lzwEmit_payload_length (c : Code) (l : Lzw) :
    (lzwEmit c l).payload.length = l.payload.length + (l.nb.toNat + l.cw.toNat) / 8 := by
  simp only [lzwEmit, List.length_append, drainBytes_length]

/-- Bits only move from the accumulator to the bytes: 19 bits hold any code above at most 7 bits. -/
theorem packedNumber_lzwEmit {l : Lzw} (h : AccRange l) (c : Code) :
    packedNumber (lzwEmit c l) =
      bytesNumber l.payload + 256 ^ l.payload.length * (l.acc.toNat + c.toNat * 2 ^ l.nb.toNat) := by
  obtain ⟨hnb, hacc⟩ := h
  have hfits : l.acc.toNat + c.toNat * 2 ^ l.nb.toNat < 2 ^ 19 := by
    calc l.acc.toNat + c.toNat * 2 ^ l.nb.toNat
        < (c.toNat + 1) * 2 ^ l.nb.toNat := by rw [add_mul]; omega
      _ ≤ 2 ^ 12 * 2 ^ 7 := Nat.mul_le_mul c.isLt (Nat.pow_le_pow_right (by omega) hnb)
      _ = 2 ^ 19 := rfl
  unfold packedNumber
  rw [lzwEmit_payload_length]
  simp only [lzwEmit, bytesNumber_append, bytesNumber_drainBytes, BitVec.toNat_ofNat]
  rw [Nat.mod_eq_of_lt ((Nat.div_le_self _ _).trans_lt hfits), pow_add, add_assoc, mul_assoc, ← mul_add, Nat.mod_add_div]

theorem packedBits_lzwEmit (c : Code) (l : Lzw) :
    packedBits (lzwEmit c l) = packedBits l + l.cw.toNat := by
  unfold packedBits
  rw [lzwEmit_payload_length]
  simp only [lzwEmit, BitVec.toNat_ofNat]
  omega

/-- Settles O41: the bits that leave the accumulator are the bytes appended. -/
theorem emitAddsTheCodesBits : Obligations.EmitAddsTheCodesBits := by
  intro l c hnb hacc _ hc
  obtain ⟨hnb', hacc'⟩ := lzwEmit_acc_range ⟨hnb, hacc⟩ hc
  exact ⟨packedNumber_lzwEmit ⟨hnb, hacc⟩ c, packedBits_lzwEmit c l, by omega, hacc'⟩

/-! ### A code list packed (30_encoding R96) -/

theorem codeBits_concat (codes : List (Code × Nat)) (c : Code) (width : Nat) :
    codeBits (codes ++ [(c, width)]) = codeBits codes + width := by
  induction codes with
  | nil => simp [codeBits]
  | cons e rest ih => simp only [List.cons_append, codeBits, ih]; omega

theorem codeNumber_concat (codes : List (Code × Nat)) (c : Code) (width : Nat) :
    codeNumber (codes ++ [(c, width)]) = codeNumber codes + 2 ^ codeBits codes * c.toNat := by
  induction codes with
  | nil => simp [codeNumber, codeBits]
  | cons e rest ih => simp only [List.cons_append, codeNumber, codeBits, ih]; ring

/-- These codes have been packed since LZW.INIT: bytes out and accumulator hold T bits, and they are N. -/
def Packs (l : Lzw) (codes : List (Code × Nat)) : Prop :=
  packedNumber l = codeNumber codes ∧ packedBits l = codeBits codes

theorem packs_lzwEmit {l : Lzw} {codes : List (Code × Nat)} (h : AccRange l) (hp : Packs l codes) (c : Code) :
    Packs (lzwEmit c l) (codes ++ [(c, l.cw.toNat)]) := by
  obtain ⟨hnumber, hbits⟩ := hp
  have hshift : 2 ^ codeBits codes = 256 ^ l.payload.length * 2 ^ l.nb.toNat := by
    rw [← hbits, packedBits, pow_add, pow_mul]
    rfl
  refine ⟨?_, by rw [packedBits_lzwEmit, codeBits_concat, hbits]⟩
  rw [packedNumber_lzwEmit h, codeNumber_concat, ← hnumber, hshift, packedNumber]
  ring

/-- LZW.SYM packs what it sends. -/
theorem packs_lzwSym {l l' : Lzw} {sym : Nat} {sent : List (Code × Nat)} (h : LzwInv l)
    (hsym : lzwSym sym l = some l') (hp : Packs l sent) : Packs l' (sent ++ symSends sym l) := by
  rcases lzwSym_cases sym l with ⟨_, he⟩ | ⟨_, _, hsend, he⟩ | ⟨_, _, hsend, _, _, he⟩ | ⟨_, hv, _, hsend, he⟩ <;>
    cases he.symm.trans hsym <;> rw [hsend]
  · rwa [List.append_nil]
  · rwa [List.append_nil]
  · have hemit := packs_lzwEmit h.acc_range hp l.cur
    unfold lzwMiss
    split
    next =>
      have hinv := lzwInv_lzwEmit h (lzwInv_lt_two_pow_cw h (h.cur_ok hv).1)
      rw [List.append_cons]
      exact packs_lzwEmit hinv.acc_range hemit 4
    next => exact hemit

/-- Bytes are what draining their number gives. -/
theorem drainBytes_bytesNumber (bytes : List Byte) : drainBytes bytes.length (bytesNumber bytes) = bytes := by
  induction bytes with
  | nil => rfl
  | cons b rest ih =>
    have hb := b.isLt
    have hlow : BitVec.ofNat 8 (b.toNat + 256 * bytesNumber rest) = b := by
      apply BitVec.eq_of_toNat_eq
      rw [BitVec.toNat_ofNat]
      omega
    have hhigh : (b.toNat + 256 * bytesNumber rest) / 256 = bytesNumber rest := by omega
    rw [List.length_cons, bytesNumber, drainBytes, hlow, hhigh, ih]

/-- PACK.FLUSH completes the payload (R168): ceil(T / 8) bytes that hold N. -/
theorem packFlush_payload {l : Lzw} {codes : List (Code × Nat)} (h : AccRange l) (hp : Packs l codes) :
    (packFlush l).payload = packCodes codes := by
  obtain ⟨hnb, hacc⟩ := h
  obtain ⟨hnumber, hbits⟩ := hp
  suffices hflush : (packFlush l).payload.length = (packedBits l + 7) / 8 ∧
      bytesNumber (packFlush l).payload = packedNumber l by
    rw [packCodes, ← hbits, ← hnumber, ← hflush.1, ← hflush.2, drainBytes_bytesNumber]
  unfold packFlush packedBits packedNumber
  split
  next h0 =>
    have hnb0 : l.nb.toNat = 0 := by rw [h0]; rfl
    have hacc0 : l.acc.toNat = 0 := by rw [hnb0] at hacc; omega
    rw [hnb0, hacc0]
    exact ⟨by omega, rfl⟩
  next h0 =>
    have hpos : l.nb.toNat ≠ 0 := fun he => h0 (BitVec.eq_of_toNat_eq he)
    have hbyte : l.acc.toNat < 256 := hacc.trans_le (Nat.pow_le_pow_right (j := 8) (by omega) (by omega))
    refine ⟨by rw [List.length_append, List.length_singleton]; omega, ?_⟩
    rw [bytesNumber_append, bytesNumber, bytesNumber, BitVec.toNat_setWidth, Nat.mod_eq_of_lt hbyte]
    rfl

/-! ### The lines of ENC -/

@[simp] theorem rasterCells_length (n i : Nat) (cells : List Symbol) : (rasterCells n i cells).length = n := by
  induction n generalizing i cells with
  | zero => rfl
  | succ n ih => cases cells <;> simp [rasterCells, ih]

/-- The symbol loop with a match pending: it packs every code that ENC sends but the last. -/
theorem encLoop_packs (symbols : List Symbol) {s : State} {sent : List (Code × Nat)} (h : LzwInv s.lzw)
    (hv : s.lzw.curv = true) (hp : Packs s.lzw sent) :
    ∃ (l : Lzw) (sends : List (Code × Nat)),
      encLoop symbols s = .go { s with lzw := l, pix := s.pix + BitVec.ofNat 32 symbols.length } ∧
      LzwInv l ∧ l.curv = true ∧ Packs l (sent ++ sends) ∧
      sendsFrom symbols s.lzw = sends ++ [(l.cur, l.cw.toNat)] := by
  induction symbols generalizing s sent with
  | nil => exact ⟨s.lzw, [], by simp [encLoop], h, hv, by rwa [List.append_nil], rfl⟩
  | cons sym rest ih =>
    obtain ⟨l', hsym, hinv⟩ := lzwInv_lzwSym h (symbol_le_three sym)
    obtain ⟨l, sends, hloop, hl, hlv, hlp, hrest⟩ := ih (s := { s with lzw := l', pix := s.pix + 1 }) hinv
      (lzwSym_curv hsym) (packs_lzwSym h hsym hp)
    refine ⟨l, symSends sym.toNat s.lzw ++ sends, ?_, hl, hlv, by rwa [← List.append_assoc], ?_⟩
    · have hpix : s.pix + 1 + BitVec.ofNat 32 rest.length = s.pix + BitVec.ofNat 32 (sym :: rest).length := by
        rw [List.length_cons, BitVec.ofNat_add]
        ac_rfl
      rw [encLoop, hsym]
      simp only [hloop, hpix]
    · rw [sendsFrom, hsym, Option.elim_some, hrest, List.append_assoc]

/-- The lines of ENC on a raster of at least one pixel (R160). -/
theorem encBody_packs {s : State} (h1 : 1 ≤ s.pixels) :
    ∃ l, encBody s = .go { s with
      lzw := l, pix := BitVec.ofNat 32 s.pixels, state := .encoded,
      lzwb := chunk (packCodes (codeStream (rasterCells s.pixels 0 s.raster))) } := by
  have hlen := rasterCells_length s.pixels 0 s.raster
  obtain ⟨sym, rest, hcells⟩ := List.exists_cons_of_length_pos (hlen ▸ h1)
  obtain ⟨l, sends, hloop, hl, hv, hp, hsends⟩ := encLoop_packs rest
    (s := { s with lzw := firstMatch sym, pix := 1 }) (sent := []) (lzwInv_firstMatch sym) rfl ⟨rfl, rfl⟩
  have hpix : (1 : BitVec 32) + BitVec.ofNat 32 rest.length = BitVec.ofNat 32 s.pixels := by
    rw [← hlen, hcells, List.length_cons, BitVec.ofNat_add]
    exact BitVec.add_comm _ _
  have hall : encLoop (rasterCells s.pixels 0 s.raster) { s with lzw := lzwInit s.lzw, pix := 0 } =
      .go { s with lzw := l, pix := BitVec.ofNat 32 s.pixels } := by
    rw [hcells, encLoop, lzwSym_lzwInit, ← hpix]
    exact hloop
  have hfin : lzwFin l = some (lzwEmit l.cur l) := by simp [lzwFin, hv]
  have hemit : Packs (lzwEmit l.cur l) (codeStream (rasterCells s.pixels 0 s.raster)) := by
    rw [hcells, codeStream_cons, hsends]
    exact packs_lzwEmit hl.acc_range hp l.cur
  have hinv := lzwInv_lzwEmit hl (lzwInv_lt_two_pow_cw hl (hl.cur_ok hv).1)
  refine ⟨packFlush (lzwEmit l.cur l), andThen_eq_go.2 ⟨_, hall, ?_⟩⟩
  rw [encFinish, hfin, ← packFlush_payload hinv.acc_range hemit]

/-- ENC of a raster of at least one pixel (R160). -/
theorem exec_enc {s : State} (hr : s.cmdReady = true) (hs : s.state = .rastered) (h1 : 1 ≤ s.pixels) :
    ∃ l, exec .enc s = .next { s with
      lzw := l, pix := BitVec.ofNat 32 s.pixels, state := .encoded,
      lzwb := chunk (packCodes (codeStream (rasterCells s.pixels 0 s.raster))) } := by
  obtain ⟨l, hgo⟩ := encBody_packs (s := { s with busy := true }) h1
  exact ⟨l, exec_legal_go (i := .enc) rfl hr (by rw [hs]; rfl) hgo⟩

/-- Settles O37: the loop packs what each symbol sends, LZW.FIN the last code, and PACK.FLUSH the padding. -/
theorem encWritesThePackedCodeStream : Obligations.EncWritesThePackedCodeStream := by
  intro s hr hs h1
  obtain ⟨l, he⟩ := exec_enc hr hs h1
  exact ⟨_, he, rfl, rfl⟩

/-- Settles O46: by O37 both are the packing of the same codes. -/
theorem lzwbDependsOnTheRasterAlone : Obligations.LzwbDependsOnTheRasterAlone := by
  intro s s' t t' hr hr' hs hs' h1 hcells ht ht'
  have hpixels : s'.pixels = s.pixels := by simpa using (congrArg List.length hcells).symm
  obtain ⟨l, he⟩ := exec_enc hr hs h1
  obtain ⟨l', he'⟩ := exec_enc hr' hs' (hpixels ▸ h1)
  cases ht.symm.trans he
  cases ht'.symm.trans he'
  rw [hcells]

/-! ### The contract violations (R172) -/

theorem lzwSym_eq_none_iff {sym : Nat} {l : Lzw} : lzwSym sym l = none ↔ 3 < sym := by
  rcases lzwSym_cases sym l with ⟨h, he⟩ | ⟨h, _, _, he⟩ | ⟨h, _, _, _, _, he⟩ | ⟨h, _, _, _, he⟩ <;> rw [he]
  · exact iff_of_true rfl h
  · exact iff_of_false nofun (by omega)
  · exact iff_of_false nofun (by omega)
  · exact iff_of_false nofun (by omega)

theorem lzwFin_eq_none_iff {l : Lzw} : lzwFin l = none ↔ l.curv = false := by
  unfold lzwFin
  split <;> simp [*]

/-- ENC of an empty raster: no symbol, and so no match for LZW.FIN. -/
theorem encBody_empty {s : State} (h0 : s.pixels = 0) :
    encBody s = .halt (({ s with lzw := lzwInit s.lzw, pix := 0 } : State).raise .contract 0) := by
  rw [encBody, h0, rasterCells, encLoop, andThen_go, encFinish, lzwFin_eq_none_iff.2 (lzwInit_curv s.lzw)]
  rfl

/-- Settles O38: the two checks are the only ways to no result, and with no pixel LZW.FIN finds no match. -/
theorem contractViolationsAreDetected : Obligations.ContractViolationsAreDetected := by
  refine ⟨fun _ _ => lzwSym_eq_none_iff, fun _ => lzwFin_eq_none_iff, fun s hr hs h0 => ?_⟩
  have hbody := encBody_empty (s := { s with busy := true }) h0
  have hexec : exec .enc s = .next
      (({ s with busy := true, lzw := lzwInit s.lzw, pix := 0 } : State).raise .contract 0) := by
    rw [exec_command (i := .enc) rfl, acceptCommand_legal hr (by rw [hs]; rfl), hbody]
    rfl
  exact ⟨_, hexec, by simp⟩

end Sys2Proof.Proofs

/-! PROOFS about the framing (41_lzw_encoder R171: O47), and the round trip from LZWB (R175: O45): the framing is removed,
the bits are cut into the codes again, and the codes decode to the raster. -/

namespace Sys2Proof.Proofs

open Sys2Proof.Machine Sys2Proof.Laws

/-! ### CHUNK (R171, 30_encoding R97) -/

/-- The bytes of a payload and one length byte for every 255 of them. -/
theorem chunkBlocks_length {fuel : Nat} {bytes : List Byte} (h : bytes.length ≤ fuel) :
    (chunkBlocks fuel bytes).length = bytes.length + (bytes.length + 254) / 255 := by
  induction fuel generalizing bytes with
  | zero => rw [List.eq_nil_of_length_eq_zero (Nat.le_zero.1 h)]; rfl
  | succ fuel ih =>
    unfold chunkBlocks
    split
    next hnil => rw [hnil]; rfl
    next hne =>
      have hpos := List.length_pos_iff.2 hne
      have hrest : (bytes.drop 255).length = bytes.length - 255 := List.length_drop
      have htake : (bytes.take 255).length = min 255 bytes.length := List.length_take
      rw [List.length_append, List.length_cons, ih (by omega), hrest, htake]
      omega

theorem chunk_length (payload : List Byte) :
    (chunk payload).length = payload.length + (payload.length + 254) / 255 + 1 := by
  rw [chunk, List.length_append, chunkBlocks_length le_rfl]
  rfl

/-- The terminator ends a series of blocks. -/
theorem readBlocks_terminator (steps : Nat) (rest : List Byte) : readBlocks (steps + 1) (0 :: rest) = some ([], rest) := by
  simp [readBlocks]

/-- A block of 1 to 255 bytes is read off the front. -/
theorem readBlocks_block {steps : Nat} {block : List Byte} (h1 : 1 ≤ block.length) (h255 : block.length ≤ 255)
    {rest payload after : List Byte} (hrest : readBlocks steps rest = some (payload, after)) :
    readBlocks (steps + 1) (BitVec.ofNat 8 block.length :: (block ++ rest)) = some (block ++ payload, after) := by
  have hn : (BitVec.ofNat 8 block.length).toNat = block.length := by rw [BitVec.toNat_ofNat]; omega
  have hne : BitVec.ofNat 8 block.length ≠ 0 := fun he => by
    rw [he] at hn
    simp at hn
    omega
  have hlong : ¬ (block ++ rest).length < block.length := by rw [List.length_append]; omega
  rw [readBlocks, if_neg hne, hn, if_neg hlong, List.drop_left, List.take_left, hrest]
  rfl

/-- A reader of blocks gets back what was cut, if it may read as many blocks as there are and the terminator. -/
theorem readBlocks_chunkBlocks {fuel steps : Nat} {bytes : List Byte} (h : bytes.length ≤ fuel)
    (hsteps : (bytes.length + 254) / 255 < steps) (rest : List Byte) :
    readBlocks steps (chunkBlocks fuel bytes ++ 0 :: rest) = some (bytes, rest) := by
  obtain ⟨steps, rfl⟩ := Nat.exists_eq_succ_of_ne_zero (Nat.ne_zero_of_lt hsteps)
  induction fuel generalizing bytes steps with
  | zero =>
    rw [List.eq_nil_of_length_eq_zero (Nat.le_zero.1 h)]
    exact readBlocks_terminator steps rest
  | succ fuel ih =>
    unfold chunkBlocks
    split
    next hnil => rw [hnil]; exact readBlocks_terminator steps rest
    next hne =>
      have hpos := List.length_pos_iff.2 hne
      have hrest : (bytes.drop 255).length = bytes.length - 255 := List.length_drop
      have htake : (bytes.take 255).length = min 255 bytes.length := List.length_take
      obtain ⟨steps, rfl⟩ := Nat.exists_eq_succ_of_ne_zero (show steps ≠ 0 by omega)
      have hread := readBlocks_block (block := bytes.take 255) (by omega) (by omega)
        (ih (bytes := bytes.drop 255) (by omega) steps (by omega))
      rw [List.append_assoc, List.cons_append, hread, List.take_append_drop]

/-- A reader of blocks gets a payload back from its sub-blocks. -/
theorem readBlocks_chunk {steps : Nat} {payload : List Byte} (hsteps : (payload.length + 254) / 255 < steps)
    (rest : List Byte) : readBlocks steps (chunk payload ++ rest) = some (payload, rest) := by
  rw [chunk, List.append_assoc]
  exact readBlocks_chunkBlocks le_rfl hsteps rest

/-- Settles O47: there are at most as many blocks as bytes of LZWB before the terminator. -/
theorem chunkReadsBack : Obligations.ChunkReadsBack := by
  intro payload rest
  have hlen := chunk_length payload
  exact ⟨hlen, readBlocks_chunk (by omega) rest⟩

/-! ### The bits cut into codes again (R175) -/

/-- Codes that fit their widths are below 2^T as one number. -/
theorem codeNumber_lt {codes : List (Code × Nat)} (h : ∀ e ∈ codes, Sendable e) :
    codeNumber codes < 2 ^ codeBits codes := by
  induction codes with
  | nil => exact Nat.one_pos
  | cons e rest ih =>
    obtain ⟨⟨_, _, _, hfits⟩, hrest⟩ := List.forall_mem_cons.1 h
    rw [codeNumber, codeBits, pow_add]
    calc e.1.toNat + 2 ^ e.2 * codeNumber rest
        < 2 ^ e.2 * (codeNumber rest + 1) := by rw [mul_add]; omega
      _ ≤ 2 ^ e.2 * 2 ^ codeBits rest := Nat.mul_le_mul_left _ (ih hrest)

/-- The packed bytes hold N again (30_encoding R96). -/
theorem bytesNumber_packCodes {codes : List (Code × Nat)} (h : ∀ e ∈ codes, Sendable e) :
    bytesNumber (packCodes codes) = codeNumber codes := by
  have hroom : 2 ^ codeBits codes ≤ 256 ^ ((codeBits codes + 7) / 8) := by
    rw [show (256 : Nat) = 2 ^ 8 from rfl, ← pow_mul]
    exact Nat.pow_le_pow_right (by omega) (by omega)
  rw [packCodes, bytesNumber_drainBytes, Nat.mod_eq_of_lt ((codeNumber_lt h).trans_le hroom)]

/-- There are no more codes than bits. -/
theorem length_le_codeBits {codes : List (Code × Nat)} (h : ∀ e ∈ codes, Sendable e) :
    codes.length ≤ codeBits codes := by
  induction codes with
  | nil => exact le_rfl
  | cons e rest ih =>
    obtain ⟨⟨_, hwidth, _⟩, hrest⟩ := List.forall_mem_cons.1 h
    have := ih hrest
    rw [List.length_cons, codeBits]
    omega

/-- What a code list decodes to, its first code apart. -/
theorem readCodes_cons_eq_some {c : Code} {width : Nat} {rest : List (Code × Nat)} {r : Reader} {out : List Symbol}
    (h : readCodes ((c, width) :: rest) r = some out) :
    width = r.width ∧ ∃ now r' later, r.code c.toNat = some (now, r') ∧ readCodes rest r' = some later ∧
      out = now ++ later := by
  rw [readCodes] at h
  split at h
  next hwidth =>
    split at h
    next now r' hcode =>
      obtain ⟨later, hlater, rfl⟩ := Option.map_eq_some_iff.1 h
      exact ⟨hwidth, now, r', later, hcode, hlater, rfl⟩
    next => cases h
  next => cases h

/-- Reading from the bits agrees with reading the codes, while symbols are wanted; padding bits are never read. -/
theorem readBits_of_readCodes {codes : List (Code × Nat)} (hsend : ∀ e ∈ codes, Sendable e) {fuel bits : Nat}
    (hfuel : codes.length < fuel) (hbits : codeBits codes ≤ bits) {r : Reader} {out : List Symbol}
    (h : readCodes codes r = some out) : readBits fuel (codeNumber codes) bits out.length r = some out := by
  induction codes generalizing fuel bits r out with
  | nil =>
    obtain ⟨fuel, rfl⟩ := Nat.exists_eq_succ_of_ne_zero (Nat.ne_zero_of_lt hfuel)
    cases h
    rfl
  | cons e rest ih =>
    obtain ⟨c, width⟩ := e
    obtain ⟨⟨_, hwidth3, _, hfits⟩, hrest⟩ := List.forall_mem_cons.1 hsend
    obtain ⟨rfl, now, r', later, hcode, hlater, rfl⟩ := readCodes_cons_eq_some h
    obtain ⟨fuel, rfl⟩ := Nat.exists_eq_succ_of_ne_zero (Nat.ne_zero_of_lt hfuel)
    rw [codeBits] at hbits
    rw [List.length_cons] at hfuel
    have hlow : (c.toNat + 2 ^ r.width * codeNumber rest) % 2 ^ r.width = c.toNat := by
      rw [Nat.add_mul_mod_self_left, Nat.mod_eq_of_lt hfits]
    have hhigh : (c.toNat + 2 ^ r.width * codeNumber rest) / 2 ^ r.width = codeNumber rest := by
      rw [Nat.add_mul_div_left _ _ (Nat.two_pow_pos _), Nat.div_eq_of_lt hfits, Nat.zero_add]
    rw [readBits, codeNumber]
    split
    next hdone => rw [List.eq_nil_of_length_eq_zero hdone]
    next =>
      have hwant : (now ++ later).length - now.length = later.length := by rw [List.length_append]; omega
      simp only [if_neg (show ¬ bits < r.width by omega), hlow, hhigh, hcode, hwant,
        if_pos (show now.length ≤ (now ++ later).length by rw [List.length_append]; omega)]
      rw [ih hrest (by omega) (by omega) hlater]
      rfl

/-- The packed codes of a nonempty raster decode to it. -/
theorem readPayload_packCodes {raster : List Symbol} (hne : raster ≠ []) :
    readPayload raster.length (packCodes (codeStream raster)) = some raster := by
  have hsend := sendable_codeStream raster
  have hlen : (packCodes (codeStream raster)).length = (codeBits (codeStream raster) + 7) / 8 := drainBytes_length _ _
  have hcodes := length_le_codeBits hsend
  rw [readPayload, bytesNumber_packCodes hsend]
  exact readBits_of_readCodes hsend (by omega) (by omega) (codeStreamDecodesToTheRaster raster hne)

/-- The framing removed (30_encoding R109). -/
theorem readLzwb_chunk (want : Nat) (payload : List Byte) : readLzwb want (chunk payload) = readPayload want payload := by
  have hlen := chunk_length payload
  have hblocks := readBlocks_chunk (steps := (chunk payload).length + 1) (payload := payload) (by omega) []
  rw [List.append_nil] at hblocks
  rw [readLzwb, hblocks]

/-- Settles O45: O37 says what ENC leaves, and each stage of the reader undoes one of the encoder's. -/
theorem encodedFrameDecodesToTheRaster : Obligations.EncodedFrameDecodesToTheRaster := by
  intro s hr hs h1
  obtain ⟨l, he⟩ := exec_enc hr hs h1
  have hlen := rasterCells_length s.pixels 0 s.raster
  have hne : rasterCells s.pixels 0 s.raster ≠ [] := List.ne_nil_of_length_pos (by omega)
  have hread := readPayload_packCodes hne
  rw [hlen] at hread
  exact ⟨_, he, (readLzwb_chunk _ _).trans hread⟩

end Sys2Proof.Proofs

/-! PROOFS about the code and record rows run by themselves (30_encoding R94, R97 to R107; O48, O58), and about what never
runs (41_lzw_encoder R169; O49). -/

namespace Sys2Proof.Proofs

open Sys2Proof.Machine Sys2Proof.Laws

/-! ### Every row but EOI runs -/

theorem finish_is_next (f : Flow) : ∃ t, f.finish = .next t := by
  cases f <;> exact ⟨_, rfl⟩

theorem acceptCommand_is_next (i : Instr) (body : State → Flow) (s : State) :
    ∃ t, acceptCommand i body s = .next t := by
  rcases acceptCommand_cases i body s with ⟨_, h⟩ | ⟨_, _, h⟩ | ⟨_, _, h⟩ | ⟨_, _, h⟩
  · exact ⟨_, h⟩
  · exact ⟨_, h⟩
  · exact ⟨_, h⟩
  · rw [h]; exact finish_is_next _

/-- Settles O49: acceptance, a code and a record each answer a next state however they go. -/
theorem onlyEoiNeverRuns : Obligations.OnlyEoiNeverRuns := by
  refine ⟨fun _ => rfl, fun i s hi => ?_⟩
  rcases exec_forms i s with ⟨body, _, h⟩ | ⟨_, op, _, _, h, _⟩ | ⟨heoi, _⟩ | ⟨bytes, _, h⟩
  · rw [h]; exact acceptCommand_is_next i body s
  · rcases runCode_cases op s with ⟨_, hc⟩ | ⟨_, hc⟩ <;> exact ⟨_, h.trans hc⟩
  · exact absurd heoi hi
  · rcases runPut_cases bytes s with ⟨_, hp⟩ | ⟨_, hp⟩ <;> exact ⟨_, h.trans hp⟩

/-! ### The code rows -/

/-- A code row but EOI is LZW.EMIT of its code, or LZW.CLEAR (R165, R167). -/
theorem exec_code {i : Instr} {c : Code} (h : encode i = .code c) (hi : i ≠ .eoi) (s : State) :
    (i ≠ .clear ∧ exec i s = runCode (lzwEmit c) s) ∨ (i = .clear ∧ c = 4 ∧ exec i s = runCode lzwClear s) := by
  cases i with
  | lit sym => cases h; exact .inl ⟨nofun, rfl⟩
  | dict d => cases h; exact .inl ⟨nofun, rfl⟩
  | clear => cases h; exact .inr ⟨rfl, rfl, rfl⟩
  | eoi => exact absurd rfl hi
  | cfg | hdr | rast | enc | wfrm | adv | close | frame | run | reserved => cases h
  | sig | lsd | gct | appext | gce | imgdesc | mincode | subblock | terminator | trailer => cases h

/-- A core that is not stopped runs a code. -/
theorem runCode_live {s : State} (h : s.stopped = false) (op : Lzw → Lzw) :
    runCode op s = .next { s with lzw := op s.lzw } := by
  simpa [h] using runCode_cases op s

/-- Settles O48: the clear code is LZW.EMIT too, with the table as new after it. -/
theorem codesAreSentInTheCurrentWidth : Obligations.CodesAreSentInTheCurrentWidth := by
  intro i c s hcode hi hs hnb hacc
  have hnumber := packedNumber_lzwEmit ⟨hnb, hacc⟩ c
  have hbits := packedBits_lzwEmit c s.lzw
  obtain ⟨hclear, he⟩ | ⟨rfl, rfl, he⟩ := exec_code hcode hi s <;> rw [runCode_live hs] at he
  · refine ⟨_, he, hnumber, hbits, rfl, rfl, ?_⟩
    rw [if_neg hclear]
    exact ⟨rfl, rfl, rfl⟩
  · exact ⟨_, he, hnumber, hbits, rfl, rfl, rfl, rfl, rfl⟩

/-- What a code that goes out by LZW.EMIT or LZW.CLEAR leaves: CUR and CURV are kept, and with LZW.EMIT the table. -/
theorem runCode_frame {op : Lzw → Lzw} (hcur : ∀ l, (op l).cur = l.cur) (hcurv : ∀ l, (op l).curv = l.curv) {s t : State}
    (h : runCode op s = .next t) : t = { s with lzw := { t.lzw with cur := s.lzw.cur, curv := s.lzw.curv } } := by
  rcases runCode_cases op s with ⟨_, hc⟩ | ⟨_, hc⟩ <;> cases hc.symm.trans h
  · rfl
  · simp only [← hcur s.lzw, ← hcurv s.lzw]

theorem runCode_lzwEmit_table {c : Code} {s t : State} (h : runCode (lzwEmit c) s = .next t) :
    t.lzw.ct = s.lzw.ct ∧ t.lzw.next = s.lzw.next ∧ t.lzw.cw = s.lzw.cw := by
  rcases runCode_cases (lzwEmit c) s with ⟨_, hc⟩ | ⟨_, hc⟩ <;> cases hc.symm.trans h <;> exact ⟨rfl, rfl, rfl⟩

/-! ### The record rows -/

/-- A record row is Put of some bytes (42_gif_writer R200). -/
theorem exec_record {i : Instr} {bytes : List Byte} (h : rowBytes i = some bytes) (s : State) :
    ∃ record, exec i s = runPut record s := by
  cases i with
  | sig | lsd | gct | appext | gce | imgdesc | mincode | subblock | terminator | trailer => exact ⟨_, rfl⟩
  | lit | clear | eoi | dict => cases h
  | cfg | hdr | rast | enc | wfrm | adv | close | frame | run | reserved => cases h

/-- What a record leaves unchanged, however its Put ends. -/
theorem runPut_frame {bytes : List Byte} {s t : State} (h : runPut bytes s = .next t) :
    t = { s with out := t.out, outcnt := t.outcnt, state := t.state, busy := t.busy, fault := t.fault, cause := t.cause,
                 info := t.info, opened := t.opened, waiting := t.waiting,
                 env := { s.env with trace := t.env.trace } } := by
  rcases runPut_cases bytes s with ⟨_, hp⟩ | ⟨_, hp⟩ <;> cases hp.symm.trans h
  · rfl
  · exact putBytes_frame bytes s

/-- Settles O58: a code is one operation of the LZW unit, a record is Put of its bytes. -/
theorem codesAndRecordsWriteOnlyTheirRegisters : Obligations.CodesAndRecordsWriteOnlyTheirRegisters := by
  refine fun i s t h => ⟨fun c hcode => ?_, fun bytes hbytes => ?_⟩
  · have hi : i ≠ .eoi := by
      rintro rfl
      cases h
    obtain ⟨_, he⟩ | ⟨hclear, _, he⟩ := exec_code hcode hi s <;> rw [he] at h
    · exact ⟨runCode_frame (lzwEmit_cur c) (lzwEmit_curv c) h, fun _ => runCode_lzwEmit_table h⟩
    · exact ⟨runCode_frame (op := lzwClear) (fun _ => rfl) (fun _ => rfl) h, fun hne => absurd hclear hne⟩
  · have hout : s.out <+: t.out := outIsAppendOnly i s t h
    obtain ⟨record, he⟩ := exec_record hbytes s
    exact ⟨runPut_frame (he.symm.trans h), hout⟩

end Sys2Proof.Proofs

/-! PROOFS about the writer (42_gif_writer R200 to R205): what Put, HDR, CLOSE and the records answer (O20, O22, O24,
O25), what the three commands leave unchanged (O56), and when the sink is given back (O16). -/

namespace Sys2Proof.Proofs

open Sys2Proof.Machine Sys2Proof.Laws

/-! ### Put, and how HDR and CLOSE end (R200, R201, R204) -/

/-- Settles O20: the three answers are the three cases of Put. -/
theorem putKeepsOnlyAcceptedBytes : Obligations.PutKeepsOnlyAcceptedBytes := by
  intro s b
  have hput := putByte_cases b s
  refine ⟨fun h => ⟨s.afterPuts [b], ?_, rfl, rfl, rfl⟩, fun h => ?_, fun h => ?_⟩ <;> simpa [h] using hput

/-- A fault entry clears BUSY, so it does not matter what BUSY was. -/
theorem raise_withBusy (s : State) (busy : Bool) (cause : Cause) (info : BitVec 64) :
    ({ s with busy := busy } : State).raise cause info = s.raise cause info := by
  rw [raise_eq, raise_eq]

/-- A command that is over early leaves the state it is over in (43_sequencer R230). -/
theorem exec_legal_halt {i : Instr} {body : State → Flow} {s t : State} (hb : commandBody i = some body)
    (hr : s.cmdReady = true) (hl : legalState i = some s.state) (hhalt : body { s with busy := true } = .halt t) :
    exec i s = .next t := by
  rw [exec_command hb, acceptCommand_legal hr hl, hhalt]
  rfl

/-- The lines of HDR, the open request refused (R201). -/
theorem hdrBody_openRefused {s : State} (h : s.env.openAnswer = .error) :
    hdrBody s = .halt ((s.log (.openSink .error)).raise .ioOpen 0) := by
  have hopen : openSink s = .halt ((s.log (.openSink .error)).raise .ioOpen 0) := by simpa [h] using openSink_cases s
  rw [hdrBody, hopen, andThen_halt]

/-- The lines of HDR, the open request never answered (70_reset R294). -/
theorem hdrBody_openUnanswered {s : State} (h : s.env.openAnswer = .never) :
    hdrBody s = .halt ((s.log (.openSink .never)).wait .openPort) := by
  have hopen : openSink s = .halt ((s.log (.openSink .never)).wait .openPort) := by simpa [h] using openSink_cases s
  rw [hdrBody, hopen, andThen_halt]

/-- Settles O22: the open request is the first line of HDR, and the command is over with it. -/
theorem hdrReportsASinkThatDoesNotOpen : Obligations.HdrReportsASinkThatDoesNotOpen := by
  intro s hr hs
  have hl : legalState .hdr = some s.state := by rw [hs]; rfl
  refine ⟨fun h => ?_, fun h => ?_⟩
  · have hhalt := hdrBody_openRefused (s := { s with busy := true }) h
    have hraise := raise_withBusy (s.log (.openSink .error)) true .ioOpen 0
    exact exec_legal_halt rfl hr hl (hhalt.trans (congrArg Flow.halt hraise))
  · exact exec_legal_halt rfl hr hl (hdrBody_openUnanswered (s := { s with busy := true }) h)

/-- The lines of CLOSE, the trailer accepted (R204). -/
theorem closeBody_accepted {s : State} (htakes : s.env.takes s.out.length 1) :
    closeBody s = .go { (s.afterPuts trailerBytes).release with state := .closed, done := true } :=
  andThen_eq_go.2 ⟨_, putBytes_eq_go.2 ⟨htakes, rfl⟩, rfl⟩

/-- Settles O24: the trailer's byte, and then the release. -/
theorem closeEndsTheFile : Obligations.CloseEndsTheFile := by
  intro s hr hs htakes
  have hgo := closeBody_accepted (s := { s with busy := true }) htakes
  have hexec := exec_legal_go (i := .close) rfl hr (by rw [hs]; rfl) hgo
  rw [release_eq] at hexec
  exact hexec

/-! ### The records (R200, 30_encoding R97 to R107) -/

/-- The listed bytes of a record row are its encoding. -/
theorem encode_of_rowBytes {i : Instr} {bytes : List Byte} (h : rowBytes i = some bytes) :
    encode i = .record bytes ∨ encode i = .block bytes := by
  cases i with
  | sig | gct | appext | mincode | trailer => cases h; exact .inl rfl
  | lsd w h' cres => cases h; exact .inl (congrArg Encoded.record (lsdBytes_eq w h' cres))
  | gce pause => cases h; exact .inl (congrArg Encoded.record (gceBytes_eq pause))
  | imgdesc w h' => cases h; exact .inl (congrArg Encoded.record (imgdescBytes_eq w h'))
  | subblock | terminator => cases h; exact .inr rfl
  | lit | clear | eoi | dict => cases h
  | cfg | hdr | rast | enc | wfrm | adv | close | frame | run | reserved => cases h

/-- A row encoded as output bytes is Put of those bytes. -/
theorem exec_of_encode_bytes {i : Instr} {bytes : List Byte} (h : encode i = .record bytes ∨ encode i = .block bytes)
    (s : State) : exec i s = runPut bytes s := by
  cases i with
  | sig | lsd | gct | appext | gce | imgdesc | mincode | trailer => obtain h | h := h <;> cases h; rfl
  | subblock | terminator => obtain h | h := h <;> cases h; rfl
  | lit | clear | eoi | dict => obtain h | h := h <;> cases h
  | cfg | hdr | rast | enc | wfrm | adv | close | frame | run | reserved => obtain h | h := h <;> cases h

/-- A core that is not stopped writes a record the sink takes. -/
theorem runPut_accepted {s : State} {bytes : List Byte} (hs : s.stopped = false)
    (htakes : s.env.takes s.out.length bytes.length) : runPut bytes s = .next (s.afterPuts bytes) := by
  have hput : putBytes bytes s = .go (s.afterPuts bytes) := putBytes_eq_go.2 ⟨htakes, rfl⟩
  simpa [hs, hput, Flow.state] using runPut_cases bytes s

/-- Settles O25: a record row is Put of its encoding, and its encoding is what the tables list. -/
theorem recordsAppendTheirBytes : Obligations.RecordsAppendTheirBytes := by
  intro i bytes s hbytes hs htakes
  have hencode := encode_of_rowBytes hbytes
  exact ⟨(exec_of_encode_bytes hencode s).trans (runPut_accepted hs htakes), hencode⟩

/-! ### What HDR, WFRM and CLOSE leave unchanged (R202 to R204) -/

/-- The writer's commands write FIDX, STATE, OPENED, OUT, OUTCNT, the trace, and what a fault or a wait writes. -/
def WriterFrame (s t : State) : Prop :=
  t = { s with fidx := t.fidx, state := t.state, busy := t.busy, fault := t.fault, cause := t.cause, info := t.info,
               outcnt := t.outcnt, opened := t.opened, out := t.out, waiting := t.waiting,
               env := { s.env with trace := t.env.trace } }

theorem writerFrame_trans {s t u : State} (hst : WriterFrame s t) (htu : WriterFrame t u) : WriterFrame s u := by
  unfold WriterFrame at *
  rw [htu, hst]

theorem writerFrame_raise (s : State) (cause : Cause) (info : BitVec 64) : WriterFrame s (s.raise cause info) := by
  rw [raise_eq]
  rfl

theorem writerFrame_done {s t : State} (h : WriterFrame s t) : t.done = s.done := by
  rw [h]

theorem writerFrame_setDone {s t : State} (h : WriterFrame s t) (done : Bool) :
    WriterFrame { s with done := done } { t with done := done } := by
  unfold WriterFrame at *
  rw [h]

/-- Where the two ends of a stretch ask for the same, only the state it leaves matters. -/
theorem ends_iff_state {after : State → Prop} {f : Flow} : Ends after after f ↔ after f.state := by
  cases f <;> rfl

theorem putBytes_writerFrame (bytes : List Byte) (s : State) :
    Ends (WriterFrame s) (WriterFrame s) (putBytes bytes s) := by
  rw [ends_iff_state, putBytes_frame]
  rfl

theorem openSink_writerFrame (s : State) : Ends (WriterFrame s) (WriterFrame s) (openSink s) := by
  rcases openSink_cases s with ⟨_, h⟩ | ⟨_, h⟩ | ⟨_, h⟩ <;> rw [h]
  · exact Eq.refl _
  · exact writerFrame_raise (s.log (.openSink .error)) .ioOpen 0
  · exact Eq.refl _

theorem hdrBody_writerFrame (s : State) : Ends (WriterFrame s) (WriterFrame s) (hdrBody s) :=
  ends_andThen (openSink_writerFrame s) fun t ht =>
    ends_andThen
      (ends_mono (putBytes_writerFrame _ t) (fun _ => writerFrame_trans ht) fun _ => writerFrame_trans ht)
      fun _ hu => writerFrame_trans hu rfl

theorem wfrmBody_writerFrame (s : State) : Ends (WriterFrame s) (WriterFrame s) (wfrmBody s) :=
  ends_andThen (putBytes_writerFrame _ s) fun _ ht => writerFrame_trans ht rfl

/-- CLOSE writes DONE as well, where it is not over early. -/
def CloseFrame (s t : State) : Prop := WriterFrame { s with done := t.done } t

theorem closeFrame_of_writerFrame {s t : State} (h : WriterFrame s t) : CloseFrame s t :=
  writerFrame_setDone h t.done

theorem closeBody_closeFrame (s : State) : Ends (CloseFrame s) (CloseFrame s) (closeBody s) := by
  refine ends_andThen
    (ends_mono (putBytes_writerFrame trailerBytes s) (fun _ => id) fun _ => closeFrame_of_writerFrame) fun t ht => ?_
  rw [release_eq]
  exact writerFrame_trans (writerFrame_setDone ht true) rfl

/-- However HDR or WFRM is accepted and ends. -/
theorem exec_writerFrame {i : Instr} {s t : State} (hi : i = .hdr ∨ i = .wfrm) (h : exec i s = .next t) :
    WriterFrame s t := by
  have hbody : ∃ body, commandBody i = some body ∧
      Ends (WriterFrame s) (WriterFrame s) (body { s with busy := true }) := by
    obtain rfl | rfl := hi
    · exact ⟨hdrBody, rfl, hdrBody_writerFrame { s with busy := true }⟩
    · exact ⟨wfrmBody, rfl, wfrmBody_writerFrame { s with busy := true }⟩
  obtain ⟨body, hb, hends⟩ := hbody
  rw [exec_command hb] at h
  exact acceptCommand_ends (after := WriterFrame s) (Eq.refl s) (fun _ => writerFrame_raise s)
    (fun _ => ends_mono hends (fun _ hu => writerFrame_trans hu rfl) fun _ => id) h

/-- However CLOSE is accepted and ends. -/
theorem exec_closeFrame {s t : State} (h : exec .close s = .next t) : CloseFrame s t := by
  have hends : Ends (CloseFrame s) (CloseFrame s) (closeBody { s with busy := true }) :=
    closeBody_closeFrame { s with busy := true }
  rw [exec_command (i := .close) rfl] at h
  exact acceptCommand_ends (after := CloseFrame s) (Eq.refl s)
    (fun _ _ _ => closeFrame_of_writerFrame (writerFrame_raise s _ _))
    (fun _ => ends_mono hends (fun _ hu => writerFrame_trans hu rfl) fun _ => id) h

/-- Settles O56: the frames of the three bodies; that FIDX is WFRM's is O29, and that OUT only grows is O27. -/
theorem writerCommandsWriteOnlyTheirRegisters : Obligations.WriterCommandsWriteOnlyTheirRegisters := by
  intro i s t hi h
  have hframe : CloseFrame s t ∧ (i ≠ .close → t.done = s.done) := by
    rcases hi with rfl | rfl | rfl
    · have hw := exec_writerFrame (.inl rfl) h
      exact ⟨closeFrame_of_writerFrame hw, fun _ => writerFrame_done hw⟩
    · have hw := exec_writerFrame (.inr rfl) h
      exact ⟨closeFrame_of_writerFrame hw, fun _ => writerFrame_done hw⟩
    · exact ⟨exec_closeFrame h, fun hne => absurd rfl hne⟩
  have hfidx (hw : i ≠ .wfrm) : t.fidx = s.fidx := by
    refine fidxIsWrittenOnlyByWfrm i s t h hw ?_ ?_ <;> rcases hi with rfl | rfl | rfl <;> decide
  exact ⟨hframe.1, hfidx, hframe.2, outIsAppendOnly i s t h⟩

/-! ### The sink is given back only at the end of a run (R205) -/

/-- The run is over, and the release pulse is the last thing at the ports. -/
def Released (s : State) : Prop := (s.state = .closed ∨ s.state = .fault) ∧ s.env.trace.head? = some .release

/-- The sink is held, or it was given back at the end of the run. -/
def HeldOrReleased (s : State) : Prop := s.opened = true ∨ Released s

/-- From a held sink a stretch of pseudocode goes on with the sink held; only where it is over may the sink be given
back. -/
def KeepsSink (body : State → Flow) : Prop :=
  ∀ s : State, s.opened = true → Ends (fun t => t.opened = true) HeldOrReleased (body s)

theorem released_raise {s : State} (h : s.opened = true) (cause : Cause) (info : BitVec 64) :
    Released (s.raise cause info) := by
  simp [Released, h]

theorem keepsSink_go {f : State → State} (hf : ∀ s, (f s).opened = s.opened) : KeepsSink fun s => .go (f s) :=
  fun s h => (hf s).trans h

theorem keepsSink_andThen {f k : State → Flow} (hf : KeepsSink f) (hk : KeepsSink k) :
    KeepsSink fun s => (f s).andThen k :=
  fun s h => ends_andThen (hf s h) hk

theorem ends_heldOrReleased {body : State → Flow} (hb : KeepsSink body) {s : State} (hs : s.opened = true) :
    Ends HeldOrReleased HeldOrReleased (body s) :=
  ends_mono (hb s hs) (fun _ => .inl) fun _ => id

theorem openSink_keepsSink : KeepsSink openSink := by
  intro s hs
  rcases openSink_cases s with ⟨_, h⟩ | ⟨_, h⟩ | ⟨_, h⟩ <;> rw [h]
  · exact Eq.refl true
  · exact .inr (released_raise (s := s.log _) hs _ _)
  · exact .inl hs

theorem putBytes_keepsSink (bytes : List Byte) : KeepsSink (putBytes bytes) := by
  intro s hs
  cases h : putBytes bytes s with
  | go t =>
    obtain ⟨_, rfl⟩ := putBytes_eq_go.1 h
    exact hs
  | halt t =>
    obtain ⟨k, b, _, _, ⟨_, rfl⟩ | ⟨_, rfl⟩⟩ := putBytes_eq_halt h
    · exact .inr (released_raise (s := (s.afterPuts (bytes.take k)).log _) hs _ _)
    · exact .inl hs

theorem xlateFrame_keepsSink : KeepsSink xlateFrame := by
  intro s hs
  rcases xlateFrame_cases s with ⟨tx, ty, _, h⟩ | ⟨_, h⟩ <;> rw [h]
  · exact hs
  · exact .inl hs

theorem advBody_keepsSink : KeepsSink advBody := by
  intro s hs
  rcases advanceBy_cases 1 s with ⟨_, h⟩ | ⟨_, h⟩ <;> rw [advBody, h]
  · exact hs
  · exact .inl hs

theorem rastLoop_keepsSink (n : Nat) (done : List Symbol) : KeepsSink (rastLoop n done) := by
  intro s hs
  have hopened : (rastLoop n done s).state.opened = true := by rw [rastLoop_frame]; exact hs
  exact ends_mono (ends_iff_state.2 hopened) (fun _ => id) fun _ => .inl

theorem rastBody_keepsSink : KeepsSink rastBody :=
  keepsSink_andThen xlateFrame_keepsSink <|
    keepsSink_andThen (fun s hs => rastLoop_keepsSink s.pixels [] { s with pix := 0 } hs) (keepsSink_go fun _ => rfl)

theorem encBody_keepsSink : KeepsSink encBody := by
  refine keepsSink_andThen (fun s hs => ?_) fun s hs => ?_
  · rcases encLoop_cases (rasterCells s.pixels 0 s.raster) { s with lzw := lzwInit s.lzw, pix := 0 } with
      ⟨l, n, h⟩ | ⟨l, n, h⟩ <;> rw [h]
    · exact hs
    · exact .inr (released_raise (s := { s with lzw := l, pix := n }) hs _ _)
  · unfold encFinish
    cases lzwFin s.lzw with
    | none => exact .inr (released_raise hs _ _)
    | some l => exact hs

theorem hdrBody_keepsSink : KeepsSink hdrBody :=
  keepsSink_andThen openSink_keepsSink <|
    keepsSink_andThen (fun s => putBytes_keepsSink (headerBytes s.params s.w s.h) s) (keepsSink_go fun _ => rfl)

theorem wfrmBody_keepsSink : KeepsSink wfrmBody :=
  keepsSink_andThen (fun s => putBytes_keepsSink (frameBytes s.pause s.w s.h s.lzwb) s) (keepsSink_go fun _ => rfl)

theorem cfgBody_keepsSink : KeepsSink cfgBody := by
  intro s hs
  have hraise (cause : Cause) (info : BitVec 64) : HeldOrReleased ((latchConfig s).raise cause info) :=
    .inr (released_raise (s := latchConfig s) hs cause info)
  unfold cfgBody
  simp only
  split
  · exact hraise _ _
  · split
    · exact hraise _ _
    · split
      · exact hraise _ _
      · exact hs

theorem frameBody_keepsSink : KeepsSink frameBody :=
  keepsSink_andThen (keepsSink_andThen rastBody_keepsSink encBody_keepsSink) wfrmBody_keepsSink

theorem runLoop_keepsSink (fuel : Nat) : KeepsSink (runLoop fuel) := by
  induction fuel with
  | zero => exact keepsSink_go fun _ => rfl
  | succ fuel ih =>
    intro s hs
    unfold runLoop
    split
    · refine keepsSink_andThen (keepsSink_andThen frameBody_keepsSink fun t ht => ?_) ih s hs
      split
      · exact advBody_keepsSink t ht
      · exact ht
    · exact hs

/-- CLOSE gives the sink back with its last line. -/
theorem closeBody_heldOrReleased {s : State} (hs : s.opened = true) :
    Ends HeldOrReleased HeldOrReleased (closeBody s) :=
  ends_andThen (putBytes_keepsSink trailerBytes s hs) fun _ ht => .inr ⟨.inl rfl, by simp [ht]⟩

/-- However the body of a command ends. -/
theorem commandBody_heldOrReleased {i : Instr} {body : State → Flow} (h : commandBody i = some body) {s : State}
    (hs : s.opened = true) : Ends HeldOrReleased HeldOrReleased (body s) := by
  cases i with
  | cfg => cases h; exact ends_heldOrReleased cfgBody_keepsSink hs
  | hdr => cases h; exact ends_heldOrReleased hdrBody_keepsSink hs
  | rast => cases h; exact ends_heldOrReleased rastBody_keepsSink hs
  | enc => cases h; exact ends_heldOrReleased encBody_keepsSink hs
  | wfrm => cases h; exact ends_heldOrReleased wfrmBody_keepsSink hs
  | adv => cases h; exact ends_heldOrReleased advBody_keepsSink hs
  | close => cases h; exact closeBody_heldOrReleased hs
  | frame => cases h; exact ends_heldOrReleased frameBody_keepsSink hs
  | run =>
    cases h
    exact ends_andThen
      (keepsSink_andThen (keepsSink_andThen cfgBody_keepsSink hdrBody_keepsSink)
        (fun t => runLoop_keepsSink (t.frames.toNat - t.fidx.toNat) t) s hs)
      fun _ => closeBody_heldOrReleased
  | reserved => cases h; exact ends_heldOrReleased (keepsSink_go fun _ => rfl) hs
  | lit | clear | eoi | dict => cases h
  | sig | lsd | gct | appext | gce | imgdesc | mincode | subblock | terminator | trailer => cases h

/-- However an instruction ends. -/
theorem exec_heldOrReleased {i : Instr} {s t : State} (hs : s.opened = true) (h : exec i s = .next t) :
    HeldOrReleased t := by
  rcases exec_forms i s with ⟨body, hb, he⟩ | ⟨_, op, _, _, he, _⟩ | ⟨_, he⟩ | ⟨bytes, _, he⟩ <;> rw [he] at h
  · exact acceptCommand_ends (.inl hs) (fun _ cause info => .inr (released_raise hs cause info))
      (fun _ => commandBody_heldOrReleased (s := { s with busy := true }) hb hs) h
  · rcases runCode_cases op s with ⟨_, hc⟩ | ⟨_, hc⟩ <;> cases hc.symm.trans h <;> exact .inl hs
  · cases h
  · rcases runPut_cases bytes s with ⟨_, hp⟩ | ⟨_, hp⟩ <;> cases hp.symm.trans h
    · exact .inl hs
    · exact ends_iff_state.1 (ends_heldOrReleased (putBytes_keepsSink bytes) hs)

/-- Settles O16: only a fault entry and the last line of CLOSE give the sink back. -/
theorem sinkIsReleasedOnlyAtTheEnd : Obligations.SinkIsReleasedOnlyAtTheEnd := by
  intro i s t h hs ht
  refine (exec_heldOrReleased hs h).resolve_left ?_
  simp [ht]

end Sys2Proof.Proofs

/-! PROOFS about the sequencer (43_sequencer R230 to R233): what is not accepted (O5, O11), the commands ADV (O31) and
CFG (O18), and the legality table (O13). -/

namespace Sys2Proof.Proofs

open Sys2Proof.Machine Sys2Proof.Laws

/-! ### When no command runs (R230) -/

theorem cmdReady_eq_false_iff {s : State} :
    s.cmdReady = false ↔ s.busy = true ∨ s.state = .closed ∨ s.state = .fault := by
  unfold State.cmdReady
  cases s.busy <;> cases s.state <;> simp [SeqState.terminal]

/-- Settles O11: the meaning of a command byte is its acceptance, and a core that is not ready accepts nothing. -/
theorem noCommandIsAcceptedUnlessReady : Obligations.NoCommandIsAcceptedUnlessReady := by
  intro s b h
  obtain ⟨body, hb⟩ := commandBody_decodeCommand b
  rw [exec_command hb, acceptCommand_notReady (cmdReady_eq_false_iff.2 h)]

/-- Settles O5: with no reset and no slot, these are the three things a step can find besides a command. -/
theorem stepWithoutACommandToRun : Obligations.StepWithoutACommandToRun := by
  intro s hreset
  obtain ⟨_, hstep⟩ := (step_cases s).resolve_left fun ⟨o, k, script, h, _⟩ => hreset o k script h
  refine ⟨fun hr hslot hscript => ?_, fun hb hs => ?_, fun hb => ?_⟩
  · obtain ⟨hbusy, hlive⟩ := cmdReady_iff.1 hr
    simpa [hr, hbusy, hlive, hslot, hscript] using hstep
  · have hready : s.cmdReady = false := cmdReady_eq_false_iff.2 (.inr hs)
    have hterminal : s.state.terminal = true := by simpa [State.cmdReady, hb] using hready
    simpa [hb, hready, hterminal] using hstep
  · have hready : s.cmdReady = false := cmdReady_eq_false_iff.2 (.inl hb)
    simpa [hb, hready] using hstep

/-! ### ADV (R233) -/

/-- The line of ADV, its request answered. -/
theorem advBody_answered {s : State} (h : s.env.advanceAnswer = true) :
    advBody s = .go { s with env := { s.env with steps := s.env.steps + 1, trace := .advance 1 :: s.env.trace } } := by
  simpa [advBody, h] using advanceBy_cases 1 s

/-- Settles O31: the body is one request, and it writes the surroundings alone. -/
theorem advStepsTheCollaborator : Obligations.AdvStepsTheCollaborator := by
  refine fun s hr => ⟨fun hs ha => ?_, fun hs => ?_⟩
  · exact exec_legal_go (i := .adv) rfl hr (by rw [hs]; rfl) (advBody_answered (s := { s with busy := true }) ha)
  · rw [exec_command (i := .adv) rfl, acceptCommand_outOfOrder hr rfl hs]
    rfl

/-! ### CFG (R232) -/

theorem dimOk_eq_false_iff {d : Nat} : dimOk d = false ↔ d < 1 ∨ 65535 < d := by
  simp only [dimOk, Bool.and_eq_false_iff, decide_eq_false_iff_not, Nat.not_le]

/-- The latched period is exact: the sum of two 16-bit values has 17 bits (10_state R22). -/
theorem latchConfig_p_toNat (s : State) :
    (latchConfig s).p.toNat = s.env.pins.cell.toNat + s.env.pins.grid.toNat := by
  have hcell := s.env.pins.cell.isLt
  have hgrid := s.env.pins.grid.isLt
  simp only [latchConfig, BitVec.toNat_ofNat]
  omega

/-- The width CFG derives from the configuration at the port, exact (10_state R22). -/
def cfgWidth (s : State) : Nat := canvasDim (latchConfig s).p s.env.pins.cols s.env.pins.grid

/-- The height CFG derives from the configuration at the port, exact (10_state R22). -/
def cfgHeight (s : State) : Nat := canvasDim (latchConfig s).p s.env.pins.rows s.env.pins.grid

theorem cfgWidth_eq (s : State) : cfgWidth s =
    (s.env.pins.cell.toNat + s.env.pins.grid.toNat) * s.env.pins.cols.toNat + s.env.pins.grid.toNat := by
  rw [cfgWidth, canvasDim, latchConfig_p_toNat]

theorem cfgHeight_eq (s : State) : cfgHeight s =
    (s.env.pins.cell.toNat + s.env.pins.grid.toNat) * s.env.pins.rows.toNat + s.env.pins.grid.toNat := by
  rw [cfgHeight, canvasDim, latchConfig_p_toNat]

/-- The configuration at the port passes CFG's three checks. -/
def ConfigAccepted (s : State) : Prop :=
  dimOk (cfgWidth s) = true ∧ dimOk (cfgHeight s) = true ∧ s.env.pins.frames ≠ 0

/-- The lines of CFG, said once: the first check that fails raises its fault from the latched state, or all pass. -/
theorem cfgBody_cases (s : State) :
    (dimOk (cfgWidth s) = false ∧ cfgBody s = .halt ((latchConfig s).raise .dim (dimInfo false (cfgWidth s)))) ∨
    (dimOk (cfgWidth s) = true ∧ dimOk (cfgHeight s) = false ∧
      cfgBody s = .halt ((latchConfig s).raise .dim (dimInfo true (cfgHeight s)))) ∨
    (dimOk (cfgWidth s) = true ∧ dimOk (cfgHeight s) = true ∧ s.env.pins.frames = 0 ∧
      cfgBody s = .halt ((latchConfig s).raise .badParam 0)) ∨
    (ConfigAccepted s ∧ cfgBody s = .go { s.configured with state := .ready }) := by
  have hbody : cfgBody s =
      if !dimOk (cfgWidth s) then .halt ((latchConfig s).raise .dim (dimInfo false (cfgWidth s)))
      else if !dimOk (cfgHeight s) then .halt ((latchConfig s).raise .dim (dimInfo true (cfgHeight s)))
      else if s.env.pins.frames = 0 then .halt ((latchConfig s).raise .badParam 0)
      else .go { s.configured with state := .ready } := rfl
  rw [hbody]
  cases hw : dimOk (cfgWidth s) with
  | false => exact .inl ⟨rfl, rfl⟩
  | true =>
    cases hh : dimOk (cfgHeight s) with
    | false => exact .inr (.inl ⟨rfl, rfl, rfl⟩)
    | true =>
      by_cases hframes : s.env.pins.frames = 0
      · exact .inr (.inr (.inl ⟨rfl, rfl, hframes, if_pos hframes⟩))
      · exact .inr (.inr (.inr ⟨⟨hw, hh, hframes⟩, if_neg hframes⟩))

/-- The same with the three faults as one. -/
theorem cfgBody_raise_or_go (s : State) :
    (∃ cause info, cfgBody s = .halt ((latchConfig s).raise cause info)) ∨
    (ConfigAccepted s ∧ cfgBody s = .go { s.configured with state := .ready }) := by
  rcases cfgBody_cases s with ⟨_, h⟩ | ⟨_, _, h⟩ | ⟨_, _, _, h⟩ | h
  · exact .inl ⟨_, _, h⟩
  · exact .inl ⟨_, _, h⟩
  · exact .inl ⟨_, _, h⟩
  · exact .inr h

/-- Settles O18: out of IDLE acceptance raises SEQ, and in IDLE the first check that fails decides. -/
theorem cfgLatchesAndChecksTheCanvas : Obligations.CfgLatchesAndChecksTheCanvas := by
  refine fun s hr => ⟨fun hs => ?_, fun hs => ?_⟩
  · rw [exec_command (i := .cfg) rfl, acceptCommand_outOfOrder hr rfl hs]
    rfl
  · intro c period width height latched
    have hl : legalState .cfg = some s.state := by rw [hs]; rfl
    have hhalt {cause : Cause} {info : BitVec 64}
        (h : cfgBody { s with busy := true } = .halt ((latchConfig { s with busy := true }).raise cause info)) :
        exec .cfg s = .next (latched.raise cause info) :=
      exec_legal_halt rfl hr hl (h.trans (congrArg Flow.halt (raise_withBusy latched true cause info)))
    have hwidth : cfgWidth { s with busy := true } = width := cfgWidth_eq _
    have hheight : cfgHeight { s with busy := true } = height := cfgHeight_eq _
    have hcases := cfgBody_cases { s with busy := true }
    rw [ConfigAccepted, hwidth, hheight, ← Bool.not_eq_false (dimOk width),
      ← Bool.not_eq_false (dimOk height)] at hcases
    simp only [dimOk_eq_false_iff] at hcases
    obtain ⟨hw, hbody⟩ | ⟨hw, hh, hbody⟩ | ⟨hw, hh, hframes, hbody⟩ | ⟨⟨hw, hh, hframes⟩, hbody⟩ := hcases
    · rw [if_pos hw, hhalt hbody, dimInfo, if_neg nofun, Nat.zero_add]
    · rw [if_neg hw, if_pos hh, hhalt hbody, dimInfo, if_pos rfl]
    · rw [if_neg hw, if_neg hh, if_pos hframes, hhalt hbody]
    · rw [if_neg hw, if_neg hh, if_neg hframes, exec_legal_go (i := .cfg) rfl hr hl hbody]
      simp only [← hwidth, ← hheight]
      rfl

/-! ### How each command ends (R231) -/

/-- A command runs with STATE as given. -/
def RunsIn (st : SeqState) (s : State) : Prop := s.state = st ∧ s.busy = true

/-- A fault was raised, or the core waits for an answer. -/
def Over (s : State) : Prop := s.state = .fault ∨ s.busy = true

/-- From one STATE a stretch of pseudocode goes on in the other; where it is over, it raised a fault or waits. -/
def EndsIn (st after : SeqState) (body : State → Flow) : Prop := ∀ s, RunsIn st s → Ends (RunsIn after) Over (body s)

theorem over_raise (s : State) (cause : Cause) (info : BitVec 64) : Over (s.raise cause info) :=
  .inl (raise_state s cause info)

theorem over_wait (s : State) (port : Port) : Over (s.wait port) := .inr rfl

/-- After a fault, or while the core waits, no command is accepted. -/
theorem cmdReady_of_over {s : State} (h : Over s) : s.cmdReady = false :=
  cmdReady_eq_false_iff.2 (h.elim (fun hs => .inr (.inr hs)) .inl)

theorem endsIn_andThen {st mid after : SeqState} {f k : State → Flow} (hf : EndsIn st mid f) (hk : EndsIn mid after k) :
    EndsIn st after fun s => (f s).andThen k :=
  fun s h => ends_andThen (hf s h) hk

/-- The end of a command sets STATE and leaves BUSY to the sequencer. -/
theorem endsIn_go {st after : SeqState} {f : State → State} (hs : ∀ s, (f s).state = after)
    (hb : ∀ s, (f s).busy = s.busy) : EndsIn st after fun s => .go (f s) :=
  fun s h => ⟨hs s, (hb s).trans h.2⟩

theorem openSink_endsIn (st : SeqState) : EndsIn st st openSink := by
  intro s hs
  rcases openSink_cases s with ⟨_, h⟩ | ⟨_, h⟩ | ⟨_, h⟩ <;> rw [h]
  · exact hs
  · exact over_raise _ _ _
  · exact over_wait _ _

theorem putBytes_endsIn (st : SeqState) (bytes : List Byte) : EndsIn st st (putBytes bytes) := by
  intro s hs
  cases h : putBytes bytes s with
  | go t =>
    obtain ⟨_, rfl⟩ := putBytes_eq_go.1 h
    exact hs
  | halt t =>
    obtain ⟨k, b, _, _, ⟨_, rfl⟩ | ⟨_, rfl⟩⟩ := putBytes_eq_halt h
    · exact over_raise _ _ _
    · exact over_wait _ _

theorem xlateFrame_endsIn (st : SeqState) : EndsIn st st xlateFrame := by
  intro s hs
  rcases xlateFrame_cases s with ⟨tx, ty, _, h⟩ | ⟨_, h⟩ <;> rw [h]
  · exact hs
  · exact over_wait _ _

theorem advBody_endsIn (st : SeqState) : EndsIn st st advBody := by
  intro s hs
  rcases advanceBy_cases 1 s with ⟨_, h⟩ | ⟨_, h⟩ <;> rw [advBody, h]
  · exact hs
  · exact over_wait _ _

theorem rastLoop_endsIn (st : SeqState) (n : Nat) (done : List Symbol) : EndsIn st st (rastLoop n done) := by
  intro s h
  induction n generalizing done s with
  | zero => exact h
  | succ n ih =>
    rw [rastLoop]
    rcases sample_cases (s.pix.toNat % s.w.toNat) (s.pix.toNat / s.w.toNat) s with
      ⟨_, hs⟩ | ⟨col, row, live, _, _, hs⟩ | ⟨col, row, _, _, hs⟩ <;> rw [hs]
    · exact ih _ _ h
    · exact ih _ _ h
    · exact .inr rfl

theorem cfgBody_endsIn : EndsIn .idle .ready cfgBody := by
  intro s hs
  obtain ⟨cause, info, h⟩ | ⟨_, h⟩ := cfgBody_raise_or_go s <;> rw [h]
  · exact over_raise _ _ _
  · exact ⟨rfl, hs.2⟩

theorem hdrBody_endsIn : EndsIn .ready .isOpen hdrBody :=
  endsIn_andThen (openSink_endsIn .ready) <|
    endsIn_andThen (fun s => putBytes_endsIn .ready (headerBytes s.params s.w s.h) s)
      (endsIn_go (fun _ => rfl) fun _ => rfl)

theorem rastBody_endsIn : EndsIn .isOpen .rastered rastBody :=
  endsIn_andThen (xlateFrame_endsIn .isOpen) <|
    endsIn_andThen (fun s => rastLoop_endsIn .isOpen s.pixels [] { s with pix := 0 })
      (endsIn_go (fun _ => rfl) fun _ => rfl)

theorem encFinish_endsIn : EndsIn .rastered .encoded encFinish := by
  intro s hs
  unfold encFinish
  cases lzwFin s.lzw with
  | none => exact over_raise _ _ _
  | some l => exact ⟨rfl, hs.2⟩

theorem encBody_endsIn : EndsIn .rastered .encoded encBody := by
  refine endsIn_andThen (mid := .rastered) (fun s hs => ?_) encFinish_endsIn
  rcases encLoop_cases (rasterCells s.pixels 0 s.raster) { s with lzw := lzwInit s.lzw, pix := 0 } with
    ⟨l, n, h⟩ | ⟨l, n, h⟩ <;> rw [h]
  · exact hs
  · exact over_raise _ _ _

theorem wfrmBody_endsIn : EndsIn .encoded .isOpen wfrmBody :=
  endsIn_andThen (fun s => putBytes_endsIn .encoded (frameBytes s.pause s.w s.h s.lzwb) s)
    (endsIn_go (fun _ => rfl) fun _ => rfl)

theorem closeBody_endsIn : EndsIn .isOpen .closed closeBody :=
  endsIn_andThen (putBytes_endsIn .isOpen trailerBytes) (endsIn_go (fun _ => rfl) release_busy)

theorem frameBody_endsIn : EndsIn .isOpen .isOpen frameBody :=
  endsIn_andThen (endsIn_andThen rastBody_endsIn encBody_endsIn) wfrmBody_endsIn

theorem runLoop_endsIn (fuel : Nat) : EndsIn .isOpen .isOpen (runLoop fuel) := by
  induction fuel with
  | zero => exact fun s h => h
  | succ fuel ih =>
    intro s h
    unfold runLoop
    split
    · refine endsIn_andThen (endsIn_andThen frameBody_endsIn fun t ht => ?_) ih s h
      split
      · exact advBody_endsIn .isOpen t ht
      · exact ht
    · exact h

theorem runBody_endsIn : EndsIn .idle .closed runBody :=
  endsIn_andThen
    (endsIn_andThen (endsIn_andThen cfgBody_endsIn hdrBody_endsIn) fun s =>
      runLoop_endsIn (s.frames.toNat - s.fidx.toNat) s)
    closeBody_endsIn

/-- One row of the legality table, from where the command's body ends. -/
theorem exec_legality {i : Instr} {body : State → Flow} {legal after : SeqState} {s : State}
    (hb : commandBody i = some body) (hl : legalState i = some legal) (he : EndsIn legal after body)
    (hr : s.cmdReady = true) :
    (s.state ≠ legal → exec i s = .next (s.raise .seq (seqInfo s.state (commandByte i)))) ∧
    (s.state = legal → ∃ t, exec i s = .next t ∧
      (t.state = after ∧ t.busy = false ∨ t.state = .fault ∨ t.busy = true)) := by
  rw [exec_command hb]
  refine ⟨acceptCommand_outOfOrder hr hl, ?_⟩
  rintro rfl
  rw [acceptCommand_legal hr hl]
  obtain ⟨t, ht⟩ := finish_is_next (body { s with busy := true })
  refine ⟨t, ht, ?_⟩
  obtain ⟨u, hu, rfl⟩ | hover := ends_finish (he { s with busy := true } ⟨rfl, rfl⟩) ht
  · exact .inl ⟨hu.1, rfl⟩
  · exact .inr hover

/-- Settles O13: each body goes on to the table's STATE, and where it is over early it raised a fault or waits. -/
theorem legalityTableOfTheCommands : Obligations.LegalityTableOfTheCommands := by
  intro s i legal after hr hrow
  simp only [List.mem_cons, List.not_mem_nil, or_false, Prod.mk.injEq] at hrow
  obtain ⟨rfl, rfl, rfl⟩ | ⟨rfl, rfl, rfl⟩ | ⟨rfl, rfl, rfl⟩ | ⟨rfl, rfl, rfl⟩ | ⟨rfl, rfl, rfl⟩ | ⟨rfl, rfl, rfl⟩ |
    ⟨rfl, rfl, rfl⟩ | ⟨rfl, rfl, rfl⟩ | ⟨rfl, rfl, rfl⟩ := hrow
  · exact exec_legality rfl rfl cfgBody_endsIn hr
  · exact exec_legality rfl rfl hdrBody_endsIn hr
  · exact exec_legality rfl rfl rastBody_endsIn hr
  · exact exec_legality rfl rfl encBody_endsIn hr
  · exact exec_legality rfl rfl wfrmBody_endsIn hr
  · exact exec_legality rfl rfl (advBody_endsIn .isOpen) hr
  · exact exec_legality rfl rfl closeBody_endsIn hr
  · exact exec_legality rfl rfl frameBody_endsIn hr
  · exact exec_legality rfl rfl runBody_endsIn hr

end Sys2Proof.Proofs

/-! PROOFS that FRAME and RUN are their expansions (43_sequencer R234, R235; O50, O51). A stretch of pseudocode is a
program if running it and issuing the commands one by one leave the same state; this composes, because after a stretch
that is over early no command of the rest is accepted. -/

namespace Sys2Proof.Proofs

open Sys2Proof.Machine Sys2Proof.Laws

/-! ### Issuing commands (30_encoding R110) -/

theorem issue_cons {i : Instr} {s t : State} (h : exec i s = .next t) (rest : List Instr) :
    issue (i :: rest) s = issue rest t := by
  rw [issue, h]

theorem issue_append (program rest : List Instr) (s : State) :
    issue (program ++ rest) s = (issue program s).bind (issue rest) := by
  induction program generalizing s with
  | nil => rfl
  | cons i program ih =>
    rw [List.cons_append, issue, issue]
    cases exec i s with
    | next t => exact ih t
    | fault r => rfl
    | refused r => rfl

/-- The state a command leaves (43_sequencer R230): BUSY falls unless the command is over early. -/
def ended : Flow → State
  | .go s => { s with busy := false }
  | .halt s => s

theorem finish_eq_ended (f : Flow) : f.finish = .next (ended f) := by
  cases f <;> rfl

/-- A ready core runs the command's body with BUSY set. -/
theorem exec_legal {i : Instr} {body : State → Flow} {s : State} (hb : commandBody i = some body)
    (hr : s.cmdReady = true) (hl : legalState i = some s.state) :
    exec i s = .next (ended (body { s with busy := true })) := by
  rw [exec_command hb, acceptCommand_legal hr hl, finish_eq_ended]

/-- From the states `pre` the stretch goes on in `post`, and issuing the program instead leaves the same state. -/
structure IssuesAs (program : List Instr) (pre post : State → Prop) (body : State → Flow) : Prop where
  ends : ∀ s, pre s → Ends post Over (body s)
  issued : ∀ s, pre s → issue program { s with busy := false } = some (ended (body s))
  skipped : ∀ s, Over s → issue program s = some s

/-- A command is legal in no terminal STATE. -/
theorem legalState_live {i : Instr} {st : SeqState} (h : legalState i = some st) : st.terminal = false := by
  cases i <;> cases h <;> rfl

/-- One command. -/
theorem issuesAs_command {i : Instr} {st after : SeqState} {body : State → Flow} (hb : commandBody i = some body)
    (hl : legalState i = some st) (he : EndsIn st after body) : IssuesAs [i] (RunsIn st) (RunsIn after) body where
  ends := he
  issued := by
    rintro s ⟨rfl, hbusy⟩
    have hset : { s with busy := true } = s := by rw [← hbusy]
    have hready : ({ s with busy := false } : State).cmdReady = true := cmdReady_iff.2 ⟨rfl, legalState_live hl⟩
    have hexec := exec_legal hb hready hl
    rw [hset] at hexec
    exact issue_cons hexec []
  skipped s hs := issue_cons (by rw [exec_command hb, acceptCommand_notReady (cmdReady_of_over hs)]) []

/-- One stretch after the other: where the first is over, nothing of the second program is accepted. -/
theorem issuesAs_andThen {p q : List Instr} {pre mid post : State → Prop} {f k : State → Flow}
    (hf : IssuesAs p pre mid f) (hk : IssuesAs q mid post k) :
    IssuesAs (p ++ q) pre post fun s => (f s).andThen k where
  ends s hs := ends_andThen (hf.ends s hs) hk.ends
  issued s hs := by
    have hends := hf.ends s hs
    rw [issue_append, hf.issued s hs, Option.bind_some]
    cases h : f s with
    | go t => rw [h] at hends; exact hk.issued t hends
    | halt t => rw [h] at hends; exact hk.skipped t hends
  skipped s hs := by rw [issue_append, hf.skipped s hs, Option.bind_some, hk.skipped s hs]

/-- The same stretch between other states. -/
theorem IssuesAs.between {program : List Instr} {pre post pre' post' : State → Prop} {body : State → Flow}
    (h : IssuesAs program pre post body) (hpre : ∀ s, pre' s → pre s) (hends : ∀ s, pre' s → Ends post' Over (body s)) :
    IssuesAs program pre' post' body where
  ends := hends
  issued s hs := h.issued s (hpre s hs)
  skipped := h.skipped

/-- Another stretch that does the same. -/
theorem IssuesAs.congr {program : List Instr} {pre post : State → Prop} {body body' : State → Flow}
    (h : IssuesAs program pre post body) (heq : ∀ s, pre s → body' s = body s) : IssuesAs program pre post body' where
  ends s hs := heq s hs ▸ h.ends s hs
  issued s hs := heq s hs ▸ h.issued s hs
  skipped := h.skipped

/-- A command whose body is a program: issued from a ready core, the program leaves the command's next state. -/
theorem exec_issuesAs {i : Instr} {body : State → Flow} {program : List Instr} {pre post : State → Prop} {s : State}
    (hb : commandBody i = some body) (hr : s.cmdReady = true) (hl : legalState i = some s.state)
    (h : IssuesAs program pre post body) (hpre : pre { s with busy := true }) :
    ∃ t, exec i s = .next t ∧ issue program s = some t := by
  have hclear : { s with busy := false } = s := by rw [← (cmdReady_iff.1 hr).1]
  have hissued := h.issued { s with busy := true } hpre
  exact ⟨_, exec_legal hb hr hl, hclear ▸ hissued⟩

/-! ### FRAME (R234) -/

/-- FRAME's lines are its three commands. -/
theorem frameBody_issuesAs : IssuesAs [.rast, .enc, .wfrm] (RunsIn .isOpen) (RunsIn .isOpen) frameBody :=
  issuesAs_andThen
    (issuesAs_andThen (issuesAs_command (i := .rast) rfl rfl rastBody_endsIn)
      (issuesAs_command (i := .enc) rfl rfl encBody_endsIn))
    (issuesAs_command (i := .wfrm) rfl rfl wfrmBody_endsIn)

/-- Settles O50: the body is the three bodies in sequence. -/
theorem frameIsRastEncWfrm : Obligations.FrameIsRastEncWfrm :=
  fun _ hr hs => exec_issuesAs (i := .frame) rfl hr (by rw [hs]; rfl) frameBody_issuesAs ⟨hs, rfl⟩

/-! ### RUN (R235) -/

/-- The two registers that RUN's loop compares. -/
def frameCounts (s : State) : BitVec 32 × BitVec 32 := (s.frames, s.fidx)

/-- RUN is at frame `j` of `n`, at least one, with STATE as given. -/
def AtFrame (st : SeqState) (n j : Nat) (s : State) : Prop :=
  RunsIn st s ∧ 0 < n ∧ s.frames.toNat = n ∧ s.fidx.toNat = j

theorem frameCounts_respectsWrites : RespectsWrites (SameView frameCounts) fun _ => False :=
  sameView_respectsWrites (fun _ => rfl) (fun _ _ => rfl) fun s cause info => by simp [frameCounts]

theorem ends_and {onGo onHalt onGo' onHalt' : State → Prop} {f : Flow} (h : Ends onGo onHalt f)
    (h' : Ends onGo' onHalt' f) : Ends (fun s => onGo s ∧ onGo' s) onHalt f := by
  cases f with
  | go s => exact ⟨h, h'⟩
  | halt s => exact h

/-- A stretch that writes neither FRAMES nor FIDX. -/
theorem atFrame_of_respects {st after : SeqState} {body : State → Flow} (he : EndsIn st after body)
    (hk : Respects (SameView frameCounts) (fun _ => False) body) {n j : Nat} {s : State} (h : AtFrame st n j s) :
    Ends (AtFrame after n j) Over (body s) := by
  obtain ⟨hin, hn, rfl, rfl⟩ := h
  refine ends_mono (ends_and (he s hin) (hk s)) (fun t ⟨ht, hcounts⟩ => ?_) fun _ => id
  obtain ⟨hframes, hfidx⟩ := Prod.mk.inj hcounts
  exact ⟨ht, hn, congrArg _ hframes, congrArg _ hfidx⟩

/-- A frame counts FIDX up, and below FRAMES nothing is lost by that (10_state R24). -/
theorem frameBody_atFrame {n j : Nat} (hj : j < n) {s : State} (h : AtFrame .isOpen n j s) :
    Ends (AtFrame .isOpen n (j + 1)) Over (frameBody s) := by
  refine ends_andThen (ends_andThen
    (atFrame_of_respects rastBody_endsIn (rastBody_respects frameCounts_respectsWrites) h) fun t =>
    atFrame_of_respects encBody_endsIn (encBody_respects frameCounts_respectsWrites)) fun t ht => ?_
  refine ends_andThen (atFrame_of_respects (putBytes_endsIn .encoded _)
    (putBytes_respects frameCounts_respectsWrites _) ht) fun u hu => ?_
  obtain ⟨⟨_, hbusy⟩, hpos, hframes, hfidx⟩ := hu
  have hn : n < 2 ^ 32 := hframes ▸ u.frames.isLt
  have hcount : (u.fidx + 1).toNat = j + 1 := by bv_omega
  exact ⟨⟨rfl, hbusy⟩, hpos, hframes, hcount⟩

theorem frame_issuesAs {n j : Nat} (hj : j < n) :
    IssuesAs [.frame] (AtFrame .isOpen n j) (AtFrame .isOpen n (j + 1)) frameBody :=
  (issuesAs_command (i := .frame) rfl rfl frameBody_endsIn).between (fun _ h => h.1) fun _ => frameBody_atFrame hj

theorem adv_issuesAs (n j : Nat) : IssuesAs [.adv] (AtFrame .isOpen n j) (AtFrame .isOpen n j) advBody :=
  (issuesAs_command (i := .adv) rfl rfl (advBody_endsIn .isOpen)).between (fun _ h => h.1) fun _ =>
    atFrame_of_respects (advBody_endsIn .isOpen) (advBody_respects frameCounts_respectsWrites)

/-- The last turn of RUN's loop: a frame and no step after it. -/
theorem runLoop_lastFrame {j : Nat} {s : State} (h : AtFrame .isOpen (j + 1) j s) : runLoop 1 s = frameBody s := by
  have hends := frameBody_atFrame (Nat.lt_succ_self j) h
  obtain ⟨_, _, hframes, hfidx⟩ := h
  rw [runLoop, if_pos (by omega)]
  cases hbody : frameBody s with
  | go t =>
    rw [hbody] at hends
    obtain ⟨_, _, hframes', hfidx'⟩ := hends
    rw [andThen_go, if_neg (by omega)]
    rfl
  | halt t => rfl

/-- Every turn before it: a frame, a step, and the other turns. -/
theorem runLoop_frameAndStep {n j : Nat} (hj : j + 1 < n) {s : State} (h : AtFrame .isOpen n j s) (fuel : Nat) :
    runLoop (fuel + 1) s = ((frameBody s).andThen advBody).andThen (runLoop fuel) := by
  have hends := frameBody_atFrame (Nat.lt_of_succ_lt hj) h
  obtain ⟨_, _, hframes, hfidx⟩ := h
  rw [runLoop, if_pos (by omega)]
  cases hbody : frameBody s with
  | go t =>
    rw [hbody] at hends
    obtain ⟨_, _, hframes', hfidx'⟩ := hends
    rw [andThen_go, andThen_go, if_pos (by omega)]
  | halt t => rfl

/-- The loop from frame `j` on, `k + 1` frames left: FRAME, and `k` times ADV and FRAME. -/
theorem runLoop_issuesAs {n : Nat} (k : Nat) {j : Nat} (hn : n = j + (k + 1)) :
    IssuesAs (.frame :: (List.replicate k [Instr.adv, .frame]).flatten) (AtFrame .isOpen n j) (RunsIn .isOpen)
      (runLoop (k + 1)) := by
  induction k generalizing j with
  | zero =>
    subst hn
    exact ((frame_issuesAs (Nat.lt_succ_self j)).between (fun _ => id)
      fun s h => frameBody_endsIn s h.1).congr fun _ => runLoop_lastFrame
  | succ k ih =>
    have hturn := issuesAs_andThen (frame_issuesAs (n := n) (j := j) (by omega)) (adv_issuesAs n (j + 1))
    have hall := issuesAs_andThen hturn (ih (j := j + 1) (by omega))
    exact hall.congr fun s h => runLoop_frameAndStep (by omega) h (k + 1)

/-- CFG at the head of RUN: FRAMES is what the port holds, and not 0. -/
theorem cfg_issuesAs (n : Nat) :
    IssuesAs [.cfg] (fun s => RunsIn .idle s ∧ s.fidx = 0 ∧ s.env.pins.frames.toNat = n)
      (AtFrame .ready n 0) cfgBody := by
  refine (issuesAs_command (i := .cfg) rfl rfl cfgBody_endsIn).between (fun _ h => h.1) ?_
  rintro s ⟨hin, hfidx, rfl⟩
  have hends := cfgBody_endsIn s hin
  obtain ⟨cause, info, h⟩ | ⟨⟨_, _, hframes⟩, h⟩ := cfgBody_raise_or_go s <;> rw [h] at hends ⊢
  · exact hends
  · have hpos : 0 < s.env.pins.frames.toNat := Nat.pos_of_ne_zero fun h0 => hframes (BitVec.eq_of_toNat_eq h0)
    exact ⟨hends, hpos, rfl, congrArg BitVec.toNat hfidx⟩

theorem hdr_issuesAs (n : Nat) : IssuesAs [.hdr] (AtFrame .ready n 0) (AtFrame .isOpen n 0) hdrBody :=
  (issuesAs_command (i := .hdr) rfl rfl hdrBody_endsIn).between (fun _ h => h.1) fun _ =>
    atFrame_of_respects hdrBody_endsIn (hdrBody_respects frameCounts_respectsWrites)

/-- The whole loop: there is a first frame, so it has at least one turn. -/
theorem frames_issuesAs (n : Nat) :
    IssuesAs (.frame :: (List.replicate (n - 1) [Instr.adv, .frame]).flatten) (AtFrame .isOpen n 0) (RunsIn .isOpen)
      fun s => runLoop (s.frames.toNat - s.fidx.toNat) s := by
  cases n with
  | zero =>
    have hnever (s : State) : ¬ AtFrame .isOpen 0 0 s := fun h => Nat.lt_irrefl 0 h.2.1
    exact
      { ends := fun s h => absurd h (hnever s), issued := fun s h => absurd h (hnever s),
        skipped := (issuesAs_command (i := .frame) rfl rfl frameBody_endsIn).skipped }
  | succ k =>
    refine (runLoop_issuesAs k (j := 0) (Nat.zero_add _).symm).congr fun s h => ?_
    obtain ⟨_, _, hframes, hfidx⟩ := h
    rw [hframes, hfidx, Nat.sub_zero]

/-- RUN's lines are its expansion, for the number of frames at the configuration port. -/
theorem runBody_issuesAs (n : Nat) :
    IssuesAs (runExpansion n) (fun s => RunsIn .idle s ∧ s.fidx = 0 ∧ s.env.pins.frames.toNat = n) (RunsIn .closed)
      runBody := by
  have hhead := issuesAs_andThen (cfg_issuesAs n) (hdr_issuesAs n)
  have hall := issuesAs_andThen (issuesAs_andThen hhead (frames_issuesAs n))
    (issuesAs_command (i := .close) rfl rfl closeBody_endsIn)
  exact hall

/-- Settles O51: each part of the body is the program of its commands. -/
theorem runIsItsExpansion : Obligations.RunIsItsExpansion :=
  fun s hr hs hfidx =>
    exec_issuesAs (i := .run) rfl hr (by rw [hs]; rfl) (runBody_issuesAs s.env.pins.frames.toNat)
      ⟨⟨hs, rfl⟩, hfidx, rfl⟩

end Sys2Proof.Proofs

/-! PROOFS about what the sequencer's instructions leave unchanged: CFG, ADV and the reserved bytes (O54), FRAME and RUN
(O57). -/

namespace Sys2Proof.Proofs

open Sys2Proof.Machine Sys2Proof.Laws

/-! ### CFG, ADV and the reserved bytes (R231 to R233) -/

/-- What a fault entry writes, BUSY left aside. -/
def FaultFrame (s t : State) : Prop :=
  t = { s with state := t.state, fault := t.fault, cause := t.cause, info := t.info, opened := t.opened,
               env := { s.env with trace := t.env.trace } }

/-- CFG writes the parameter and derived registers, STATE, and what a fault writes. -/
def CfgFrame (s t : State) : Prop :=
  t = { s with frames := t.frames, pause := t.pause, cell := t.cell, grid := t.grid, cols := t.cols, rows := t.rows,
               p := t.p, w := t.w, h := t.h, state := t.state, fault := t.fault, cause := t.cause, info := t.info,
               opened := t.opened, env := { s.env with trace := t.env.trace } }

/-- ADV writes the collaborator's step, the trace, and what a fault or a wait writes. -/
def AdvFrame (s t : State) : Prop :=
  t = { s with state := t.state, busy := t.busy, fault := t.fault, cause := t.cause, info := t.info,
               opened := t.opened, waiting := t.waiting,
               env := { s.env with trace := t.env.trace, steps := t.env.steps } }

theorem faultFrame_raise {s : State} (hb : s.busy = false) (cause : Cause) (info : BitVec 64) :
    FaultFrame s (s.raise cause info) := by
  rw [FaultFrame, raise_eq, hb]

theorem cfgFrame_of_faultFrame {s t : State} (h : FaultFrame s t) : CfgFrame s t := by
  unfold FaultFrame at h
  rw [CfgFrame, h]

theorem advFrame_raise (s : State) (cause : Cause) (info : BitVec 64) : AdvFrame s (s.raise cause info) := by
  rw [raise_eq]
  rfl

/-- The latched registers are among those of CFG. -/
theorem cfgFrame_raise_latchConfig (s : State) (cause : Cause) (info : BitVec 64) :
    CfgFrame { s with busy := false } ((latchConfig s).raise cause info) := by
  rw [raise_eq]
  rfl

/-- The lines of CFG, however they end, with BUSY left aside. -/
theorem cfgBody_cfgFrame (s : State) :
    Ends (fun u => CfgFrame { s with busy := false } { u with busy := false }) (CfgFrame { s with busy := false })
      (cfgBody s) := by
  obtain ⟨cause, info, h⟩ | ⟨_, h⟩ := cfgBody_raise_or_go s <;> rw [h]
  · exact cfgFrame_raise_latchConfig s cause info
  · exact Eq.refl _

theorem exec_cfgFrame {s t : State} (h : exec .cfg s = .next t) : CfgFrame s t := by
  rw [exec_command (i := .cfg) rfl] at h
  refine acceptCommand_ends (after := CfgFrame s) (Eq.refl s) (fun hb cause info => ?_) (fun hb => ?_) h
  · exact cfgFrame_of_faultFrame (faultFrame_raise hb cause info)
  · have hbody := cfgBody_cfgFrame { s with busy := true }
    have hclear : { s with busy := false } = s := by rw [← hb]
    rw [hclear] at hbody
    exact hbody

theorem exec_advFrame {s t : State} (h : exec .adv s = .next t) : AdvFrame s t := by
  rw [exec_command (i := .adv) rfl] at h
  refine acceptCommand_ends (after := AdvFrame s) (Eq.refl s) (fun _ => advFrame_raise s) (fun _ => ?_) h
  rcases advanceBy_cases 1 { s with busy := true } with ⟨_, ha⟩ | ⟨_, ha⟩ <;> rw [advBody, ha]
  · exact Eq.refl _
  · exact Eq.refl _

theorem exec_reservedFrame {r p : BitVec 4} {s t : State} (h : exec (.reserved r p) s = .next t) : FaultFrame s t := by
  rw [exec_command (i := .reserved r p) rfl] at h
  refine acceptCommand_ends (after := FaultFrame s) (Eq.refl s) faultFrame_raise (fun hb => ?_) h
  rw [ends_go, FaultFrame, ← hb]

/-- Settles O54: the frames of acceptance and of the three bodies. -/
theorem cfgAdvAndReservedWriteOnlyTheirRegisters : Obligations.CfgAdvAndReservedWriteOnlyTheirRegisters :=
  fun _ _ => ⟨exec_cfgFrame, exec_advFrame, fun _ _ => exec_reservedFrame⟩

/-! ### FRAME (R234) -/

/-- The RASTER cells past the frame are as they were. -/
def KeepsCellsAbove (s t : State) : Prop := ∀ i, s.pixels ≤ i → t.raster[i]? = s.raster[i]?

/-- FRAME writes what RAST, ENC and WFRM write. -/
def MacroFrame (s t : State) : Prop :=
  t = { s with fidx := t.fidx, pix := t.pix, tx := t.tx, ty := t.ty, state := t.state, busy := t.busy,
               fault := t.fault, cause := t.cause, info := t.info, outcnt := t.outcnt, opened := t.opened,
               lzw := t.lzw, raster := t.raster, lzwb := t.lzwb, out := t.out, waiting := t.waiting,
               env := { s.env with trace := t.env.trace } } ∧
  KeepsCellsAbove s t

theorem macroFrame_busy (s : State) (b : Bool) : MacroFrame s { s with busy := b } := ⟨rfl, fun _ _ => rfl⟩

theorem macroFrame_trans {s t u : State} (hst : MacroFrame s t) (htu : MacroFrame t u) : MacroFrame s u := by
  obtain ⟨ht, hcells⟩ := hst
  obtain ⟨hu, hcells'⟩ := htu
  have hpixels : t.pixels = s.pixels := by rw [ht]; rfl
  refine ⟨?_, fun i hi => (hcells' i (hpixels ▸ hi)).trans (hcells i hi)⟩
  rw [hu, ht]

theorem macroFrame_of_rastFrame {s t : State} (h : RastFrame s t) : MacroFrame s t := by
  obtain ⟨ht, hcells⟩ := h
  refine ⟨?_, hcells⟩
  rw [ht]

theorem macroFrame_of_encFrame {s t : State} (h : EncFrame s t) : MacroFrame s t := by
  unfold EncFrame at h
  rw [h]
  exact ⟨rfl, fun _ _ => rfl⟩

theorem macroFrame_of_writerFrame {s t : State} (h : WriterFrame s t) : MacroFrame s t := by
  unfold WriterFrame at h
  rw [h]
  exact ⟨rfl, fun _ _ => rfl⟩

theorem macroFrame_raise (s : State) (cause : Cause) (info : BitVec 64) : MacroFrame s (s.raise cause info) :=
  macroFrame_of_writerFrame (writerFrame_raise s cause info)

theorem encBody_macroFrame (s : State) : Ends (MacroFrame s) (MacroFrame s) (encBody s) :=
  ends_mono (encBody_ends s)
    (fun u hu => macroFrame_trans (macroFrame_trans (macroFrame_busy s false) (macroFrame_of_encFrame hu))
      (macroFrame_busy { u with busy := false } u.busy))
    fun _ hu => macroFrame_trans (macroFrame_busy s false) (macroFrame_of_encFrame hu)

theorem frameBody_macroFrame (s : State) : Ends (MacroFrame s) (MacroFrame s) (frameBody s) := by
  have hmono {f : Flow} {t : State} (ht : MacroFrame s t) (hf : Ends (MacroFrame t) (MacroFrame t) f) :
      Ends (MacroFrame s) (MacroFrame s) f :=
    ends_mono hf (fun _ => macroFrame_trans ht) fun _ => macroFrame_trans ht
  have hrast : Ends (MacroFrame s) (MacroFrame s) (rastBody s) :=
    ends_mono (rastBody_ends s) (fun _ => macroFrame_of_rastFrame) fun _ => macroFrame_of_rastFrame
  have hwfrm (t : State) : Ends (MacroFrame t) (MacroFrame t) (wfrmBody t) :=
    ends_mono (wfrmBody_writerFrame t) (fun _ => macroFrame_of_writerFrame) fun _ => macroFrame_of_writerFrame
  exact ends_andThen (ends_andThen hrast fun t ht => hmono ht (encBody_macroFrame t)) fun t ht => hmono ht (hwfrm t)

theorem exec_macroFrame {s t : State} (h : exec .frame s = .next t) : MacroFrame s t := by
  rw [exec_command (i := .frame) rfl] at h
  refine acceptCommand_ends (after := MacroFrame s) (macroFrame_busy s s.busy) (fun _ => macroFrame_raise s)
    (fun _ => ?_) h
  have hbefore := macroFrame_busy s true
  exact ends_mono (frameBody_macroFrame { s with busy := true })
    (fun u hu => macroFrame_trans (macroFrame_trans hbefore hu) (macroFrame_busy u false))
    fun _ hu => macroFrame_trans hbefore hu

/-! ### RUN (R235) -/

/-- What no line of RUN writes: the parameters of the implementation, the slot, and the surroundings but for the
collaborator's step and the trace. -/
def setup (s : State) : Params × Option Encoded × Env := (s.params, s.slot, { s.env with steps := 0, trace := [] })

/-- The setup and the canvas are as they were, and so are the RASTER cells past the frame. -/
def RunFrame (s t : State) : Prop :=
  SameView (fun u : State => (setup u, u.w, u.h)) s t ∧ KeepsCellsAbove s t

theorem runFrame_of_macroFrame {s t : State} (h : MacroFrame s t) : RunFrame s t := by
  obtain ⟨ht, hcells⟩ := h
  refine ⟨?_, hcells⟩
  rw [ht]
  rfl

theorem runFrame_trans {s t u : State} (hst : RunFrame s t) (htu : RunFrame t u) : RunFrame s u := by
  obtain ⟨ht, hcells⟩ := hst
  obtain ⟨hu, hcells'⟩ := htu
  have hpixels : t.pixels = s.pixels := congrArg (fun v => v.2.1.toNat * v.2.2.toNat) ht
  exact ⟨hu.trans ht, fun i hi => (hcells' i (hpixels ▸ hi)).trans (hcells i hi)⟩

/-- The end of a run, seen from its beginning: the canvas is the one that CFG has written. -/
def RunEnd (s t : State) : Prop := SameView setup s t ∧ ∀ i, t.pixels ≤ i → t.raster[i]? = s.raster[i]?

/-- A stretch of pseudocode that stays in its frame. -/
def StaysInRunFrame (body : State → Flow) : Prop := ∀ s, Ends (RunFrame s) (RunFrame s) (body s)

theorem staysInRunFrame_andThen {f k : State → Flow} (hf : StaysInRunFrame f) (hk : StaysInRunFrame k) :
    StaysInRunFrame fun s => (f s).andThen k :=
  fun s => ends_andThen (hf s) fun t ht =>
    ends_mono (hk t) (fun _ => runFrame_trans ht) fun _ => runFrame_trans ht

theorem hdrBody_staysInRunFrame : StaysInRunFrame hdrBody := by
  have hframe (s t : State) (h : WriterFrame s t) : RunFrame s t :=
    runFrame_of_macroFrame (macroFrame_of_writerFrame h)
  exact fun s => ends_mono (hdrBody_writerFrame s) (hframe s) (hframe s)

theorem frameBody_staysInRunFrame : StaysInRunFrame frameBody :=
  fun s => ends_mono (frameBody_macroFrame s) (fun _ => runFrame_of_macroFrame) fun _ => runFrame_of_macroFrame

theorem advBody_staysInRunFrame : StaysInRunFrame advBody := by
  intro s
  rcases advanceBy_cases 1 s with ⟨_, h⟩ | ⟨_, h⟩ <;> rw [advBody, h]
  · exact ⟨rfl, fun _ _ => rfl⟩
  · exact ⟨rfl, fun _ _ => rfl⟩

theorem closeBody_staysInRunFrame : StaysInRunFrame closeBody := by
  have hframe (s t : State) (h : CloseFrame s t) : RunFrame s t := by
    obtain ⟨hview, hcells⟩ := runFrame_of_macroFrame (macroFrame_of_writerFrame h)
    exact ⟨hview, hcells⟩
  exact fun s => ends_mono (closeBody_closeFrame s) (hframe s) (hframe s)

theorem runLoop_staysInRunFrame (fuel : Nat) : StaysInRunFrame (runLoop fuel) := by
  induction fuel with
  | zero => exact fun s => ⟨rfl, fun _ _ => rfl⟩
  | succ fuel ih =>
    intro s
    unfold runLoop
    split
    · refine staysInRunFrame_andThen (staysInRunFrame_andThen frameBody_staysInRunFrame fun t => ?_) ih s
      split
      · exact advBody_staysInRunFrame t
      · exact ⟨rfl, fun _ _ => rfl⟩
    · exact ⟨rfl, fun _ _ => rfl⟩

/-- CFG at the head of RUN writes no RASTER cell. -/
theorem cfgBody_runEnd (s : State) : Ends (RunEnd s) (RunEnd s) (cfgBody s) := by
  obtain ⟨cause, info, h⟩ | ⟨_, h⟩ := cfgBody_raise_or_go s <;> rw [h]
  · rw [raise_eq]
    exact ⟨rfl, fun _ _ => rfl⟩
  · exact ⟨rfl, fun _ _ => rfl⟩

theorem runEnd_trans {s t u : State} (hst : RunEnd s t) (htu : RunFrame t u) : RunEnd s u := by
  obtain ⟨hsetup, hcells⟩ := hst
  obtain ⟨hview, hcells'⟩ := htu
  have hpixels : u.pixels = t.pixels := congrArg (fun v => v.2.1.toNat * v.2.2.toNat) hview
  refine ⟨(congrArg Prod.fst hview).trans hsetup, fun i hi => ?_⟩
  rw [hpixels] at hi
  exact (hcells' i hi).trans (hcells i hi)

theorem ends_runEnd_andThen {s : State} {f : Flow} {k : State → Flow} (hf : Ends (RunEnd s) (RunEnd s) f)
    (hk : StaysInRunFrame k) : Ends (RunEnd s) (RunEnd s) (f.andThen k) :=
  ends_andThen hf fun t ht => ends_mono (hk t) (fun _ => runEnd_trans ht) fun _ => runEnd_trans ht

/-- The lines of RUN, however they end: once CFG has written the canvas, the rest stays in its frame. -/
theorem runBody_runEnd (s : State) : Ends (RunEnd s) (RunEnd s) (runBody s) :=
  ends_runEnd_andThen
    (ends_runEnd_andThen (ends_runEnd_andThen (cfgBody_runEnd s) hdrBody_staysInRunFrame) fun t =>
      runLoop_staysInRunFrame (t.frames.toNat - t.fidx.toNat) t)
    closeBody_staysInRunFrame

theorem exec_runEnd {s t : State} (h : exec .run s = .next t) : RunEnd s t := by
  rw [exec_command (i := .run) rfl] at h
  refine acceptCommand_ends (after := RunEnd s) ⟨rfl, fun _ _ => rfl⟩ (fun _ cause info => ?_)
    (fun _ => runBody_runEnd { s with busy := true }) h
  rw [raise_eq]
  exact ⟨rfl, fun _ _ => rfl⟩

/-- A setup that is as it was, field by field. -/
theorem eq_of_setup {s t : State} (h : SameView setup s t) :
    t = { t with params := s.params, slot := s.slot,
                 env := { s.env with trace := t.env.trace, steps := t.env.steps } } := by
  simp only [SameView, setup, Prod.mk.injEq] at h
  obtain ⟨hparams, hslot, henv⟩ := h
  have hsame : t.env = { s.env with trace := t.env.trace, steps := t.env.steps } :=
    congrArg (fun e : Env => { e with trace := t.env.trace, steps := t.env.steps }) henv
  rw [← hparams, ← hslot, ← hsame]

/-- Settles O57: FRAME stays in the frames of its three bodies; RUN writes the canvas first and then stays in it. -/
theorem macrosWriteOnlyTheirRegisters : Obligations.MacrosWriteOnlyTheirRegisters := by
  refine fun s t => ⟨exec_macroFrame, fun h => ?_⟩
  obtain ⟨hsetup, hcells⟩ := exec_runEnd h
  exact ⟨eq_of_setup hsetup, hcells⟩

end Sys2Proof.Proofs

/-! PROOFS that FRAME and RUN complete when every request is answered (43_sequencer R234 to R236; O52, O53). -/

namespace Sys2Proof.Proofs

open Sys2Proof.Machine Sys2Proof.Laws

/-! ### FRAME (R234) -/

/-- A sink that accepts every byte goes on doing so. -/
theorem takesAll_of_grown {e e' : Env} (h : e.takesAll) (hplan : e'.sinkPlan = e.sinkPlan)
    (hgrown : e.trace.length ≤ e'.trace.length) : e'.takesAll := by
  intro held k
  have hlater := h held (e'.trace.length - e.trace.length + k)
  have hsame := h held k
  unfold Env.putAnswerAt at *
  rw [hplan]
  cases hp : e.sinkPlan with
  | free =>
    rw [hp] at hlater
    rwa [show e.trace.length + (e'.trace.length - e.trace.length + k) = e'.trace.length + k by omega] at hlater
  | accepts count after =>
    rw [hp] at hsame
    exact hsame

/-- RASTER read back where symbols stand at its front. -/
theorem rasterCells_append (symbols rest : List Symbol) (i : Nat) :
    rasterCells symbols.length i (symbols ++ rest) = symbols := by
  induction symbols generalizing i with
  | nil => rfl
  | cons sym symbols ih => exact congrArg (sym :: ·) (ih (i + 1))

/-- LZWB of a frame of these symbols (41_lzw_encoder R160). -/
def lzwbOf (symbols : List Symbol) : List Byte := chunk (packCodes (codeStream symbols))

/-- RAST, every request answered: the translation is `tx`, `ty` and the pixels have these symbols. -/
def rasteredWith (s : State) (tx ty : BitVec 32) (symbols : List Symbol) : State :=
  { s with
    tx := tx, ty := ty, pix := BitVec.ofNat 32 s.pixels, raster := symbols ++ s.raster.drop s.pixels,
    state := .rastered,
    env := { s.env with
      trace := (frameQueries { s with tx := tx, ty := ty }).reverse ++ .xlate s.fidx :: s.env.trace } }

/-- ENC of a raster of these symbols, the LZW registers left as `l`. -/
def encodedWith (s : State) (symbols : List Symbol) (l : Lzw) : State :=
  { s with lzw := l, pix := BitVec.ofNat 32 s.pixels, state := .encoded, lzwb := lzwbOf symbols }

/-- FRAME, every request answered. -/
def framed (s : State) (tx ty : BitVec 32) (symbols : List Symbol) (l : Lzw) : State :=
  { (encodedWith (rasteredWith s tx ty symbols) symbols l).afterPuts (frameBytes s.pause s.w s.h (lzwbOf symbols)) with
    fidx := s.fidx + 1, state := .isOpen }

theorem encBody_rasteredWith {s : State} {symbols : List Symbol} (h1 : 1 ≤ s.pixels) (hlen : symbols.length = s.pixels)
    (tx ty : BitVec 32) : ∃ l, encBody (rasteredWith s tx ty symbols) =
      .go (encodedWith (rasteredWith s tx ty symbols) symbols l) := by
  have hcells : rasterCells s.pixels 0 (symbols ++ s.raster.drop s.pixels) = symbols := by
    rw [← hlen, rasterCells_append]
  have hraster : rasterCells (rasteredWith s tx ty symbols).pixels 0 (rasteredWith s tx ty symbols).raster = symbols :=
    hcells
  obtain ⟨l, henc⟩ := encBody_packs (s := rasteredWith s tx ty symbols) h1
  rw [hraster] at henc
  exact ⟨l, henc⟩

/-- The lines of FRAME, every request answered. -/
theorem frameBody_answered {s : State} {tx ty : BitVec 32} {symbols : List Symbol} (h1 : 1 ≤ s.pixels)
    (hxlate : s.env.xlateAnswer s.fidx = some (tx, ty)) (hlen : symbols.length = s.pixels)
    (hsymbols : AreFirstSymbols { s with tx := tx, ty := ty } symbols) (htakes : s.env.takesAll) :
    ∃ l, frameBody s = .go (framed s tx ty symbols l) := by
  have hrast : rastBody s = .go (rasteredWith s tx ty symbols) := rastBody_answered hxlate hlen hsymbols
  obtain ⟨l, henc⟩ := encBody_rasteredWith h1 hlen tx ty
  have hlater : (encodedWith (rasteredWith s tx ty symbols) symbols l).env.takesAll := by
    refine takesAll_of_grown htakes rfl ?_
    show _ ≤ (_ ++ _ :: s.env.trace).length
    rw [List.length_append, List.length_cons]
    omega
  have hwfrm := wfrmBody_accepted (s := encodedWith (rasteredWith s tx ty symbols) symbols l) fun k _ => hlater _ k
  exact ⟨l, andThen_eq_go.2 ⟨_, andThen_eq_go.2 ⟨_, hrast, henc⟩, hwfrm⟩⟩

/-- Settles O52: every pixel has a symbol, and the frame written is the encoding of the symbols. -/
theorem frameAppendsOneFrame : Obligations.FrameAppendsOneFrame := by
  intro s tx ty hr hs h1 hxlate hpixels htakes
  obtain ⟨symbols, hlen, hsymbols⟩ := exists_areFirstSymbols fun i (hi : i < s.pixels) => symbolAt_isSome hpixels hi
  obtain ⟨l, hgo⟩ := frameBody_answered (s := { s with busy := true }) h1 hxlate hlen hsymbols htakes
  have hexec := exec_legal_go (i := .frame) rfl hr (by rw [hs]; rfl) hgo
  exact ⟨_, symbols, hexec, rfl, (cmdReady_iff.1 hr).1, rfl, hlen,
    fun i hi => areFirstSymbols_getElem? hsymbols (hlen ▸ hi), rfl, rfl⟩

/-! ### What is seen at the ports (20_memory R71) -/

theorem withoutCells_append (a b : List PortCall) : withoutCells (a ++ b) = withoutCells a ++ withoutCells b :=
  List.filter_append a b

/-- A frame's queries are all cell queries. -/
theorem withoutCells_frameQueries (s : State) : withoutCells (frameQueries s).reverse = [] := by
  refine List.filter_eq_nil_iff.2 fun c hc => ?_
  obtain ⟨i, _, hi⟩ := List.mem_filterMap.1 (List.mem_reverse.1 hc)
  split at hi
  · cases hi
  · cases hi
    exact Bool.false_ne_true

/-- Bytes are no cell queries. -/
theorem withoutCells_putCalls (bytes : List Byte) : withoutCells (putCalls bytes) = putCalls bytes := by
  refine List.filter_eq_self.2 fun c hc => ?_
  obtain ⟨b, _, rfl⟩ := List.mem_map.1 (List.mem_reverse.1 hc)
  rfl

/-- What is seen of a frame: its translation request, then its bytes. -/
theorem withoutCells_framed (s : State) (tx ty : BitVec 32) (symbols : List Symbol) (l : Lzw) :
    withoutCells (framed s tx ty symbols l).env.trace =
      putCalls (frameBytes s.pause s.w s.h (lzwbOf symbols)) ++ .xlate s.fidx :: withoutCells s.env.trace := by
  have htrace : (framed s tx ty symbols l).env.trace = putCalls (frameBytes s.pause s.w s.h (lzwbOf symbols)) ++
      ((frameQueries { s with tx := tx, ty := ty }).reverse ++ .xlate s.fidx :: s.env.trace) := rfl
  rw [htrace, withoutCells_append, withoutCells_append, withoutCells_putCalls, withoutCells_frameQueries]
  rfl

/-- What is seen of one frame, newest first. -/
theorem frameCalls_singleton_reverse (j : Nat) (frame : List Byte) :
    (frameCalls j [frame]).reverse = putCalls frame ++ [.xlate (BitVec.ofNat 32 j)] := by
  simp [frameCalls, putCalls]

/-- One frame after another, with a step between them. -/
theorem frameCalls_cons (j : Nat) (frame : List Byte) {rest : List (List Byte)} (h : rest ≠ []) :
    frameCalls j (frame :: rest) = frameCalls j [frame] ++ .advance 1 :: frameCalls (j + 1) rest := by
  simp [frameCalls, h]

/-- The code stream of a frame is never empty, so the payload is not. -/
theorem packCodes_codeStream_ne_nil {symbols : List Symbol} (h : symbols ≠ []) :
    packCodes (codeStream symbols) ≠ [] := by
  have hstream : codeStream symbols ≠ [] := by
    intro h0
    have hdecode := codeStreamDecodesToTheRaster symbols h
    rw [h0] at hdecode
    exact h (Option.some.inj hdecode).symm
  have hbits := length_le_codeBits (sendable_codeStream symbols)
  have hpos := List.length_pos_of_ne_nil hstream
  refine List.ne_nil_of_length_pos ?_
  rw [packCodes, drainBytes_length]
  omega

/-! ### The frames of RUN (R235) -/

/-- What SAMPLE reads of the core and of the surroundings. -/
theorem pixelsAnswered_congr {s t : State} (h : PixelsAnswered s) (hconf : configuration t = configuration s)
    (htx : t.tx = s.tx) (hty : t.ty = s.ty) (henv : t.env = { s.env with trace := t.env.trace }) :
    PixelsAnswered t := by
  simp only [configuration, Prod.mk.injEq] at hconf
  obtain ⟨_, _, _, hgrid, _, _, hp, hw, hh⟩ := hconf
  have hanswer (col row : Int) : t.env.cellAnswer col row = s.env.cellAnswer col row := by
    rw [henv]
    rfl
  intro x y hx hy
  have hsymbol : pixelSymbol t x y = pixelSymbol s x y := by
    simp only [pixelSymbol, pixelKind, hgrid, hp, htx, hty, hanswer]
  rw [hsymbol]
  exact h x y (hw ▸ hx) (hh ▸ hy)

section Run

variable {s : State} (hcfg : ConfigAccepted s) (htakes : s.env.takesAll) (hanswered : RunAnswered s)

/-- RUN, begun in `s`, between two lines of its frame loop: `j` of its frames are written and `m` steps are made. -/
structure InRun (s : State) (j m : Nat) (u : State) : Prop where
  atFrame : AtFrame .isOpen s.env.pins.frames.toNat j u
  opened : u.opened = true
  config : configuration u = configuration s.configured
  env : u.env = { s.env with steps := s.env.steps + m, trace := u.env.trace }
  grown : s.env.trace.length ≤ u.env.trace.length

/-- From `u` to `t` RUN has written these frames, numbered from `j` on; nothing else but cell queries is seen. -/
structure WroteFrames (s : State) (j : Nat) (frames : List (List Byte)) (u t : State) : Prop where
  isFrame : ∀ f ∈ frames, IsFrame s.env.pins.pause s.configured.w s.configured.h f
  out : t.out = u.out ++ frames.flatten
  calls : withoutCells t.env.trace = (frameCalls j frames).reverse ++ withoutCells u.env.trace

theorem inRun_fidx {j m : Nat} {u : State} (h : InRun s j m u) : u.fidx = BitVec.ofNat 32 j := by
  obtain ⟨_, _, _, hfidx⟩ := h.atFrame
  rw [← hfidx, BitVec.ofNat_toNat, BitVec.setWidth_eq]

theorem inRun_canvas {j m : Nat} {u : State} (h : InRun s j m u) :
    u.pause = s.env.pins.pause ∧ u.w = s.configured.w ∧ u.h = s.configured.h := by
  have hconf := h.config
  simp only [configuration, Prod.mk.injEq] at hconf
  obtain ⟨_, hpause, _, _, _, _, _, hw, hh⟩ := hconf
  exact ⟨hpause, hw, hh⟩

include htakes in
theorem takesAll_of_inRun {j m : Nat} {u : State} (h : InRun s j m u) : u.env.takesAll :=
  takesAll_of_grown htakes (by rw [h.env]) h.grown

include hcfg in
/-- CFG's checks leave a canvas of at least one pixel (R232). -/
theorem pixels_pos_of_inRun {j m : Nat} {u : State} (h : InRun s j m u) : 1 ≤ u.pixels := by
  obtain ⟨hw, hh, _⟩ := hcfg
  have hcanvas : CanvasOk u := canvasOk_congr (canvasOk_configured hw hh) h.config
  exact Nat.mul_pos hcanvas.width_pos hcanvas.height_pos

/-- The frame that FRAME writes inside RUN. -/
theorem wroteFrames_framed {j m : Nat} {u : State} (h : InRun s j m u) (tx ty : BitVec 32) {symbols : List Symbol}
    (hne : symbols ≠ []) (l : Lzw) :
    WroteFrames s j [frameBytes u.pause u.w u.h (lzwbOf symbols)] u (framed u tx ty symbols l) where
  isFrame f hf := by
    obtain ⟨hpause, hw, hh⟩ := inRun_canvas h
    refine ⟨packCodes (codeStream symbols), packCodes_codeStream_ne_nil hne, ?_⟩
    rw [List.mem_singleton.1 hf, hpause, hw, hh]
    rfl
  out := by
    rw [List.flatten_singleton]
    rfl
  calls := by
    rw [withoutCells_framed, frameCalls_singleton_reverse, inRun_fidx h, List.append_assoc]
    rfl

include hcfg htakes hanswered in
/-- One frame of RUN. -/
theorem frameBody_inRun {j : Nat} {u : State} (hj : j < s.env.pins.frames.toNat) (h : InRun s j j u) :
    ∃ t frame, frameBody u = .go t ∧ InRun s (j + 1) j t ∧ WroteFrames s j [frame] u t := by
  obtain ⟨hxlates, _⟩ := hanswered
  obtain ⟨tx, ty, hxlate, hpixels⟩ := hxlates j hj
  have h1 := pixels_pos_of_inRun hcfg h
  have hxlate' : u.env.xlateAnswer u.fidx = some (tx, ty) := by
    rw [inRun_fidx h, h.env]
    exact hxlate
  have hpixels' : PixelsAnswered { u with tx := tx, ty := ty } := pixelsAnswered_congr hpixels h.config rfl rfl h.env
  obtain ⟨symbols, hlen, hsymbols⟩ := exists_areFirstSymbols fun i (hi : i < u.pixels) => symbolAt_isSome hpixels' hi
  obtain ⟨l, hgo⟩ := frameBody_answered h1 hxlate' hlen hsymbols (takesAll_of_inRun htakes h)
  have hat := frameBody_atFrame hj h.atFrame
  rw [hgo] at hat
  have hin : InRun s (j + 1) j (framed u tx ty symbols l) :=
    { atFrame := hat, opened := h.opened, config := h.config
      env := congrArg (fun e : Env => { e with trace := (framed u tx ty symbols l).env.trace }) h.env
      grown := by
        have hgrown := h.grown
        show _ ≤ (_ ++ (_ ++ _ :: u.env.trace)).length
        rw [List.length_append, List.length_append, List.length_cons]
        omega }
  have hne : symbols ≠ [] := List.ne_nil_of_length_pos (by omega)
  exact ⟨_, _, hgo, hin, wroteFrames_framed h tx ty hne l⟩

include hanswered in
/-- The step between two frames. -/
theorem advBody_inRun {j : Nat} {u : State} (hj : j + 1 < s.env.pins.frames.toNat) (h : InRun s (j + 1) j u) :
    ∃ t, advBody u = .go t ∧ InRun s (j + 1) (j + 1) t ∧ t.out = u.out ∧ t.env.trace = .advance 1 :: u.env.trace := by
  obtain ⟨_, hadvances⟩ := hanswered
  have hanswer : u.env.advanceAnswer = true := by
    rw [h.env]
    exact hadvances j hj
  refine ⟨_, advBody_answered hanswer, ?_, rfl, rfl⟩
  exact
    { atFrame := h.atFrame, opened := h.opened, config := h.config
      env := congrArg (fun e : Env => { e with steps := e.steps + 1, trace := .advance 1 :: u.env.trace }) h.env
      grown := h.grown.trans (Nat.le_succ _) }

/-- A frame, a step, and the frames after it. -/
theorem wroteFrames_cons {j : Nat} {frame : List Byte} {rest : List (List Byte)} {u t t' v : State}
    (hframe : WroteFrames s j [frame] u t) (hout : t'.out = t.out) (htrace : t'.env.trace = .advance 1 :: t.env.trace)
    (hrest : WroteFrames s (j + 1) rest t' v) (hne : rest ≠ []) : WroteFrames s j (frame :: rest) u v where
  isFrame f hf := by
    obtain rfl | hf := List.mem_cons.1 hf
    · exact hframe.isFrame f (List.mem_singleton_self f)
    · exact hrest.isFrame f hf
  out := by rw [hrest.out, hout, hframe.out, List.flatten_singleton, List.append_assoc, List.flatten_cons]
  calls := by
    have hstep : withoutCells t'.env.trace = .advance 1 :: withoutCells t.env.trace := by
      rw [htrace]
      rfl
    rw [hrest.calls, hstep, hframe.calls, frameCalls_cons j frame hne]
    simp

include hcfg htakes hanswered in
/-- RUN's loop from frame `j` on, `k + 1` frames left. -/
theorem runLoop_inRun (k : Nat) {j : Nat} {u : State} (hn : s.env.pins.frames.toNat = j + (k + 1)) (h : InRun s j j u) :
    ∃ t frames, runLoop (k + 1) u = .go t ∧ frames.length = k + 1 ∧ WroteFrames s j frames u t ∧
      InRun s s.env.pins.frames.toNat (s.env.pins.frames.toNat - 1) t := by
  induction k generalizing j u with
  | zero =>
    obtain ⟨t, frame, hgo, hin, hwrote⟩ := frameBody_inRun hcfg htakes hanswered (by omega) h
    have hat := h.atFrame
    rw [hn] at hat ⊢
    exact ⟨t, [frame], (runLoop_lastFrame hat).trans hgo, rfl, hwrote, hin⟩
  | succ k ih =>
    obtain ⟨t, frame, hgo, hin, hwrote⟩ := frameBody_inRun hcfg htakes hanswered (by omega) h
    obtain ⟨t', hadv, hin', hout, htrace⟩ := advBody_inRun hanswered (by omega) hin
    obtain ⟨v, rest, hloop, hlen, hrest, hlast⟩ := ih (by omega) hin'
    have hturn := runLoop_frameAndStep (by omega) h.atFrame (k + 1)
    rw [hgo, andThen_go, hadv, andThen_go, hloop] at hturn
    have hne : rest ≠ [] := List.ne_nil_of_length_pos (by omega)
    have hall := wroteFrames_cons hwrote hout htrace hrest hne
    exact ⟨v, frame :: rest, hturn, by rw [List.length_cons, hlen], hall, hlast⟩

/-! ### A whole run (R235, R236) -/

/-- CFG and HDR at the head of RUN, every byte accepted. -/
def headerWritten (s : State) : State :=
  let opened : State := { ({ s.configured with state := .ready } : State).log (.openSink .ok) with opened := true }
  { opened.afterPuts (headerBytes s.params s.configured.w s.configured.h) with state := .isOpen }

include hcfg in
theorem cfgBody_accepted : cfgBody s = .go { s.configured with state := .ready } := by
  obtain ⟨hw, hh, hframes⟩ := hcfg
  rcases cfgBody_cases s with ⟨hw', _⟩ | ⟨_, hh', _⟩ | ⟨_, _, hzero, _⟩ | ⟨_, h⟩
  · cases hw.symm.trans hw'
  · cases hh.symm.trans hh'
  · exact absurd hzero hframes
  · exact h

include hcfg htakes in
theorem headerWritten_accepted (hopen : s.env.openAnswer = .ok) :
    (cfgBody s).andThen hdrBody = .go (headerWritten s) := by
  have hlater : (s.log (.openSink .ok)).env.takesAll := takesAll_of_grown htakes rfl (Nat.le_succ _)
  have hhdr := hdrBody_accepted (s := { s.configured with state := .ready }) hopen fun k _ => hlater _ k
  exact andThen_eq_go.2 ⟨_, cfgBody_accepted hcfg, hhdr⟩

theorem withoutCells_headerWritten (s : State) :
    withoutCells (headerWritten s).env.trace =
      putCalls (headerBytes s.params s.configured.w s.configured.h) ++ .openSink .ok :: withoutCells s.env.trace := by
  have htrace : (headerWritten s).env.trace =
      putCalls (headerBytes s.params s.configured.w s.configured.h) ++ .openSink .ok :: s.env.trace := rfl
  rw [htrace, withoutCells_append, withoutCells_putCalls]
  rfl

include hcfg in
theorem inRun_headerWritten (hin : RunsIn .idle s) (hfidx : s.fidx = 0) : InRun s 0 0 (headerWritten s) where
  atFrame := by
    obtain ⟨_, hbusy⟩ := hin
    obtain ⟨_, _, hframes⟩ := hcfg
    have hpos : 0 < s.env.pins.frames.toNat := Nat.pos_of_ne_zero fun h0 => hframes (BitVec.eq_of_toNat_eq h0)
    exact ⟨⟨rfl, hbusy⟩, hpos, rfl, congrArg BitVec.toNat hfidx⟩
  opened := rfl
  config := rfl
  env := rfl
  grown := by
    show _ ≤ (_ ++ _ :: s.env.trace).length
    rw [List.length_append, List.length_cons]
    omega

/-- CLOSE at the end of RUN: the trailer's byte and the release. -/
def closedFrom (s : State) : State :=
  { s.afterPuts trailerBytes with
    opened := false, state := .closed, done := true,
    env := { s.env with trace := .release :: (putCalls trailerBytes ++ s.env.trace) } }

theorem withoutCells_closedFrom (s : State) :
    withoutCells (closedFrom s).env.trace = .release :: (putCalls trailerBytes ++ withoutCells s.env.trace) := by
  have hcalls : withoutCells (closedFrom s).env.trace =
      .release :: withoutCells (putCalls trailerBytes ++ s.env.trace) := rfl
  rw [hcalls, withoutCells_append, withoutCells_putCalls]

include htakes in
theorem closeBody_inRun {j m : Nat} {u : State} (h : InRun s j m u) : closeBody u = .go (closedFrom u) := by
  have hclose := closeBody_accepted fun k _ => takesAll_of_inRun htakes h u.out.length k
  rw [release_eq, if_pos (show (u.afterPuts trailerBytes).opened = true from h.opened)] at hclose
  exact hclose

include hcfg htakes hanswered in
/-- The lines of RUN, every request answered: the header, all frames, and the trailer. -/
theorem runBody_answered (hin : RunsIn .idle s) (hfidx : s.fidx = 0) (hopen : s.env.openAnswer = .ok) :
    ∃ u frames, runBody s = .go (closedFrom u) ∧ frames.length = s.env.pins.frames.toNat ∧
      WroteFrames s 0 frames (headerWritten s) u ∧
      InRun s s.env.pins.frames.toNat (s.env.pins.frames.toNat - 1) u := by
  have hfirst := inRun_headerWritten hcfg hin hfidx
  obtain ⟨_, hpos, hframes, hcount⟩ := hfirst.atFrame
  obtain ⟨k, hk⟩ := Nat.exists_eq_add_of_lt hpos
  obtain ⟨u, frames, hloop, hlen, hwrote, hlast⟩ := runLoop_inRun hcfg htakes hanswered k hk hfirst
  have hfuel : (headerWritten s).frames.toNat - (headerWritten s).fidx.toNat = k + 1 := by omega
  refine ⟨u, frames, andThen_eq_go.2 ⟨_, andThen_eq_go.2 ⟨_, headerWritten_accepted hcfg htakes hopen, ?_⟩,
    closeBody_inRun htakes hlast⟩, by omega, hwrote, hlast⟩
  rw [hfuel]
  exact hloop

end Run

/-- Settles O53: the header, the frames with a step between any two, and the trailer. -/
theorem runWritesACompleteFile : Obligations.RunWritesACompleteFile := by
  intro s hr hs hfidx hw hh hframes hopen htakes hanswered
  obtain ⟨u, frames, hbody, hlen, hwrote, hlast⟩ := runBody_answered (s := { s with busy := true }) ⟨hw, hh, hframes⟩
    htakes hanswered ⟨hs, rfl⟩ hfidx hopen
  obtain ⟨_, _, _, hcount⟩ := hlast.atFrame
  obtain ⟨_, hcanvasW, hcanvasH⟩ := inRun_canvas hlast
  have hexec := exec_legal_go (i := .run) rfl hr (by rw [hs]; rfl) hbody
  refine ⟨_, frames, hexec, rfl, rfl, rfl, (cmdReady_iff.1 hr).1, BitVec.eq_of_toNat_eq hcount, hlen, ?_, ?_, ?_, ?_⟩
  · show ∀ f ∈ frames, IsFrame s.env.pins.pause u.w u.h f
    rw [hcanvasW, hcanvasH]
    exact hwrote.isFrame
  · show u.out ++ trailerBytes = s.out ++ headerBytes s.params u.w u.h ++ frames.flatten ++ trailerBytes
    rw [hwrote.out, hcanvasW, hcanvasH]
    rfl
  · show u.env.steps = s.env.steps + (s.env.pins.frames.toNat - 1)
    rw [hlast.env]
  · show withoutCells (closedFrom u).env.trace = _
    rw [withoutCells_closedFrom, hwrote.calls, withoutCells_headerWritten, ← hcanvasW, ← hcanvasH]
    simp only [List.cons_append, List.append_assoc]
    rfl

end Sys2Proof.Proofs

/-! PROOFS of the obligations that come from 60_exceptions: fault entry and the end of a run (O14, O8), a byte the sink
refuses in the middle of a command (O26), and that CONTRACT is never raised from a reachable state (O39). -/

namespace Sys2Proof.Proofs

open Sys2Proof.Machine Sys2Proof.Laws

/-! ### Fault entry, and the end of a run (R269, R270) -/

/-- Settles O14: the release is the only part of a fault entry that reads the state. -/
theorem faultEntryChangesOnlyTheFaultRecord : Obligations.FaultEntryChangesOnlyTheFaultRecord := raise_eq

/-- Settles O8: a step is a reset, or by O5 nothing changes. -/
theorem onlyResetLeavesTheEndOfARun : Obligations.OnlyResetLeavesTheEndOfARun := by
  intro s hs hb
  obtain ⟨o, k, script, hscript, he⟩ | ⟨hreset, _⟩ := step_cases s
  · exact .inr ⟨o, k, script, _, hscript, he, rfl, rfl, rfl, rfl⟩
  · obtain ⟨_, hend, _⟩ := stepWithoutACommandToRun s hreset
    exact .inl ⟨hreset, hend hb hs.symm⟩

/-! ### A byte refused in the middle of a sequence (R260, R263) -/

/-- IO_WRITE at the byte `b`, the bytes `taken` before it accepted (42_gif_writer R200). -/
def refusedAt (s : State) (taken : List Byte) (b : Byte) : State :=
  ((s.afterPuts taken).log (.put b .error)).raise .ioWrite (s.afterPuts taken).outcnt

/-- Put of a sequence whose byte after the first `k` is the first the sink does not take, and it refuses that one. -/
theorem putBytes_refused {bytes : List Byte} {s : State} {k : Nat} {b : Byte} (hb : bytes[k]? = some b)
    (htakes : s.env.takes s.out.length k) (hrefused : s.env.putAnswerAt s.out.length k = .error) :
    putBytes bytes s = .halt (refusedAt s (bytes.take k) b) := by
  cases hput : putBytes bytes s with
  | go t =>
    obtain ⟨hall, _⟩ := putBytes_eq_go.1 hput
    obtain ⟨hk, _⟩ := List.getElem?_eq_some_iff.1 hb
    cases (hall k hk).symm.trans hrefused
  | halt t =>
    obtain ⟨j, c, hc, htakes', hstop⟩ := putBytes_eq_halt hput
    have hj : s.env.putAnswerAt s.out.length j ≠ .ok := by
      obtain ⟨h, _⟩ | ⟨h, _⟩ := hstop <;> rw [h] <;> decide
    have hjk : j = k := by
      obtain hlt | heq | hgt := Nat.lt_trichotomy j k
      · exact absurd (htakes j hlt) hj
      · exact heq
      · cases (htakes' k hgt).symm.trans hrefused
    subst hjk
    cases hc.symm.trans hb
    obtain ⟨_, rfl⟩ | ⟨hnever, _⟩ := hstop
    · rfl
    · cases hnever.symm.trans hrefused

/-- BUSY, which a command sets, is cleared by the fault entry. -/
theorem refusedAt_withBusy (s : State) (busy : Bool) (taken : List Byte) (b : Byte) :
    refusedAt { s with busy := busy } taken b = refusedAt s taken b :=
  raise_withBusy ((s.afterPuts taken).log (.put b .error)) busy .ioWrite (s.afterPuts taken).outcnt

/-- A legal command whose body Puts these bytes, from the state `s1` on, and is over where they are. -/
theorem exec_refused {i : Instr} {body : State → Flow} {s s1 : State} {bytes : List Byte} {k : Nat} {b : Byte}
    (hcommand : commandBody i = some body) (hr : s.cmdReady = true) (hl : legalState i = some s.state)
    (hbody : ∀ t, putBytes bytes { s1 with busy := true } = .halt t → body { s with busy := true } = .halt t)
    (hb : bytes[k]? = some b) (htakes : s1.env.takes s1.out.length k)
    (hrefused : s1.env.putAnswerAt s1.out.length k = .error) :
    exec i s = .next (refusedAt s1 (bytes.take k) b) := by
  have hput := putBytes_refused (s := { s1 with busy := true }) hb htakes hrefused
  rw [refusedAt_withBusy] at hput
  exact exec_legal_halt hcommand hr hl (hbody _ hput)

/-- HDR is over where Put of its bytes is, once the sink is open (42_gif_writer R202). -/
theorem hdrBody_halt {s t : State} (hopen : s.env.openAnswer = .ok)
    (hput : putBytes (headerBytes s.params s.w s.h) { s.log (.openSink .ok) with opened := true } = .halt t) :
    hdrBody s = .halt t := by
  have hs : openSink s = .go { s.log (.openSink .ok) with opened := true } := by
    simpa [hopen] using openSink_cases s
  exact andThen_eq_halt.2 (.inr ⟨_, hs, andThen_eq_halt.2 (.inl hput)⟩)

/-- A record is over where Put of its bytes is. -/
theorem exec_record_refused {i : Instr} {s : State} {bytes : List Byte} {k : Nat} {b : Byte} (hs : s.stopped = false)
    (hrow : rowBytes i = some bytes) (hb : bytes[k]? = some b) (htakes : s.env.takes s.out.length k)
    (hrefused : s.env.putAnswerAt s.out.length k = .error) :
    exec i s = .next (refusedAt s (bytes.take k) b) := by
  have hput := putBytes_refused hb htakes hrefused
  rw [exec_of_encode_bytes (encode_of_rowBytes hrow)]
  simpa [hs, hput, Flow.state] using runPut_cases bytes s

theorem refusedAt_env_trace (s : State) (taken : List Byte) (b : Byte) :
    (refusedAt s taken b).env.trace =
      (if s.opened then [.release] else []) ++ .put b .error :: putCalls taken ++ s.env.trace := by
  rw [refusedAt, raise_env_trace]
  cases h : s.opened <;> simp [State.afterPuts, h]

/-- Settles O26: HDR, WFRM, CLOSE and a record each are over where Put of their bytes is. -/
theorem refusedByteEndsTheCommand : Obligations.RefusedByteEndsTheCommand := by
  intro s s1 i bytes k b hcase hb htakes hrefused
  have hrun : exec i s = .next (refusedAt s1 (bytes.take k) b) ∧
      s1.out = s.out ∧ s1.outcnt = s.outcnt ∧ s1.done = s.done ∧ s1.fidx = s.fidx := by
    obtain ⟨rfl, hr, hs, hopen, rfl, rfl⟩ | ⟨rfl, hr, hs, rfl, rfl⟩ | ⟨rfl, hr, hs, rfl, rfl⟩ | ⟨hs, rfl, hrow⟩ := hcase
    · have hbody : ∀ t, _ → hdrBody { s with busy := true } = .halt t := fun _ => hdrBody_halt hopen
      exact ⟨exec_refused (i := .hdr) rfl hr (by rw [hs]; rfl) hbody hb htakes hrefused, rfl, rfl, rfl, rfl⟩
    · have hbody : ∀ t, _ → wfrmBody { s1 with busy := true } = .halt t := fun _ h => andThen_eq_halt.2 (.inl h)
      exact ⟨exec_refused (i := .wfrm) rfl hr (by rw [hs]; rfl) hbody hb htakes hrefused, rfl, rfl, rfl, rfl⟩
    · have hbody : ∀ t, _ → closeBody { s1 with busy := true } = .halt t := fun _ h => andThen_eq_halt.2 (.inl h)
      exact ⟨exec_refused (i := .close) rfl hr (by rw [hs]; rfl) hbody hb htakes hrefused, rfl, rfl, rfl, rfl⟩
    · exact ⟨exec_record_refused hs hrow hb htakes hrefused, rfl, rfl, rfl, rfl⟩
  obtain ⟨hexec, hout, houtcnt, hdone, hfidx⟩ := hrun
  obtain ⟨hk, _⟩ := List.getElem?_eq_some_iff.1 hb
  have hcount : (s1.afterPuts (bytes.take k)).outcnt = s.outcnt + BitVec.ofNat 64 k := by
    rw [State.afterPuts, List.length_take_of_le hk.le, houtcnt]
  refine ⟨_, hexec, ?_, raise_state _ _ _, raise_fault _ _ _, raise_busy _ _ _, raise_cause _ _ _, ?_, ?_,
    raise_opened _ _ _, ?_, ?_, refusedAt_env_trace s1 _ b⟩
  · rw [refusedAt, raise_out, log_out, State.afterPuts, hout]
  · rw [refusedAt, raise_info, hcount]
  · rw [refusedAt, raise_outcnt, raise_info, log_outcnt]
  · rw [refusedAt, raise_done, log_done, State.afterPuts, hdone]
  · rw [refusedAt, raise_fidx, log_fidx, State.afterPuts, hfidx]

/-! ### CONTRACT (R264) -/

/-- CAUSE is not CONTRACT. -/
def NoContract (s : State) : Prop := s.cause ≠ .contract

/-- A stretch of pseudocode that never raises CONTRACT. -/
def RaisesNoContract (body : State → Flow) : Prop := ∀ s, NoContract s → Ends NoContract NoContract (body s)

theorem noContract_raise (s : State) {cause : Cause} (info : BitVec 64) (h : cause ≠ .contract) :
    NoContract (s.raise cause info) := by
  rwa [NoContract, raise_cause]

theorem noContract_of_settled {s : State} (h : Settled s) : NoContract s := by
  rw [NoContract, h.cause]
  decide

theorem raisesNoContract_andThen {f k : State → Flow} (hf : RaisesNoContract f) (hk : RaisesNoContract k) :
    RaisesNoContract fun s => (f s).andThen k :=
  fun s hs => ends_andThen (hf s hs) hk

theorem raisesNoContract_go {f : State → State} (hf : ∀ s, (f s).cause = s.cause) :
    RaisesNoContract fun s => .go (f s) :=
  fun s hs => by rwa [ends_go, NoContract, hf]

theorem openSink_raisesNoContract : RaisesNoContract openSink := by
  intro s hs
  rcases openSink_cases s with ⟨_, h⟩ | ⟨_, h⟩ | ⟨_, h⟩ <;> rw [h]
  · exact hs
  · exact noContract_raise _ _ nofun
  · exact hs

theorem putBytes_raisesNoContract (bytes : List Byte) : RaisesNoContract (putBytes bytes) := by
  intro s hs
  cases h : putBytes bytes s with
  | go t =>
    obtain ⟨_, rfl⟩ := putBytes_eq_go.1 h
    exact hs
  | halt t =>
    obtain ⟨k, b, _, _, ⟨_, rfl⟩ | ⟨_, rfl⟩⟩ := putBytes_eq_halt h
    · exact noContract_raise _ _ nofun
    · exact hs

theorem xlateFrame_raisesNoContract : RaisesNoContract xlateFrame := by
  intro s hs
  rcases xlateFrame_cases s with ⟨tx, ty, _, h⟩ | ⟨_, h⟩ <;> rw [h] <;> exact hs

theorem advBody_raisesNoContract : RaisesNoContract advBody := by
  intro s hs
  rcases advanceBy_cases 1 s with ⟨_, h⟩ | ⟨_, h⟩ <;> rw [advBody, h] <;> exact hs

theorem rastLoop_raisesNoContract (n : Nat) (done : List Symbol) : RaisesNoContract (rastLoop n done) := by
  intro s hs
  rw [ends_iff_state, rastLoop_frame]
  exact hs

theorem rastBody_raisesNoContract : RaisesNoContract rastBody :=
  raisesNoContract_andThen xlateFrame_raisesNoContract <|
    raisesNoContract_andThen (fun s hs => rastLoop_raisesNoContract s.pixels [] { s with pix := 0 } hs)
      (raisesNoContract_go fun _ => rfl)

theorem hdrBody_raisesNoContract : RaisesNoContract hdrBody :=
  raisesNoContract_andThen openSink_raisesNoContract <|
    raisesNoContract_andThen (fun s => putBytes_raisesNoContract (headerBytes s.params s.w s.h) s)
      (raisesNoContract_go fun _ => rfl)

theorem wfrmBody_raisesNoContract : RaisesNoContract wfrmBody :=
  raisesNoContract_andThen (fun s => putBytes_raisesNoContract (frameBytes s.pause s.w s.h s.lzwb) s)
    (raisesNoContract_go fun _ => rfl)

theorem closeBody_raisesNoContract : RaisesNoContract closeBody :=
  raisesNoContract_andThen (putBytes_raisesNoContract trailerBytes) (raisesNoContract_go release_cause)

theorem cfgBody_raisesNoContract : RaisesNoContract cfgBody := by
  intro s hs
  rcases cfgBody_cases s with ⟨_, h⟩ | ⟨_, _, h⟩ | ⟨_, _, _, h⟩ | ⟨_, h⟩ <;> rw [h]
  · exact noContract_raise _ _ nofun
  · exact noContract_raise _ _ nofun
  · exact noContract_raise _ _ nofun
  · exact hs

/-- From the legal STATE of ENC the canvas has a pixel, and then ENC completes. -/
theorem encBody_noContract {s : State} (h : SettledIn .rastered s) : Ends NoContract NoContract (encBody s) := by
  obtain ⟨h, hs⟩ := h
  have hcanvas := h.canvas (by rw [hs]; rfl)
  obtain ⟨l, hgo⟩ := encBody_packs (s := s) (Nat.mul_pos hcanvas.width_pos hcanvas.height_pos)
  have hcause : NoContract s := noContract_of_settled h
  rw [hgo]
  exact hcause

/-- From a state of the invariant the instruction does not raise CONTRACT. -/
def NeverRaisesContract (i : Instr) : Prop :=
  ∀ s t : State, Inv s → NoContract s → exec i s = .next t → NoContract t

/-- Acceptance raises BADCMD and SEQ, so what counts is the command in its legal STATE. -/
theorem neverRaisesContract_of_legal {i : Instr} {body : State → Flow} (hb : commandBody i = some body)
    (hlegal : ∀ s t : State, Inv s → s.cmdReady = true → legalState i = some s.state → exec i s = .next t →
      NoContract t) : NeverRaisesContract i := by
  intro s t hinv hs h
  have hnext := exec_command hb s
  rcases acceptCommand_cases i body s with ⟨_, ha⟩ | ⟨_, _, ha⟩ | ⟨_, _, ha⟩ | ⟨hr, hl, _⟩
  · cases (hnext.trans ha).symm.trans h; exact hs
  · cases (hnext.trans ha).symm.trans h; exact noContract_raise _ _ nofun
  · cases (hnext.trans ha).symm.trans h; exact noContract_raise _ _ nofun
  · exact hlegal s t hinv hr hl h

/-- A command, from how its body ends in its legal STATE. -/
theorem neverRaisesContract_of_ends {i : Instr} {body : State → Flow} (hb : commandBody i = some body)
    (hends : ∀ s, Settled s → legalState i = some s.state → Ends NoContract NoContract (body s)) :
    NeverRaisesContract i := by
  refine neverRaisesContract_of_legal hb fun s t hinv hr hl h => ?_
  rw [exec_command hb, acceptCommand_legal hr hl] at h
  have hsettled : SettledIn s.state { s with busy := true } := settled_work ⟨settled_of_inv hinv hr, rfl⟩
  obtain ⟨u, hu, rfl⟩ | ht := ends_finish (hends _ hsettled.1 hl) h
  · exact hu
  · exact ht

/-- A command whose body never raises CONTRACT. -/
theorem neverRaisesContract_of_body {i : Instr} {body : State → Flow} (hb : commandBody i = some body)
    (hbody : RaisesNoContract body) : NeverRaisesContract i :=
  neverRaisesContract_of_ends hb fun s h _ => hbody s (noContract_of_settled h)

/-- Every command but FRAME and RUN. -/
theorem single_neverRaisesContract {i : Instr} {body : State → Flow} (hb : commandBody i = some body)
    (hframe : i ≠ .frame) (hrun : i ≠ .run) : NeverRaisesContract i := by
  have hbody := neverRaisesContract_of_body hb
  cases i with
  | cfg => cases hb; exact hbody cfgBody_raisesNoContract
  | hdr => cases hb; exact hbody hdrBody_raisesNoContract
  | rast => cases hb; exact hbody rastBody_raisesNoContract
  | enc =>
    cases hb
    exact neverRaisesContract_of_ends rfl fun _ h hl => encBody_noContract ⟨h, (Option.some.inj hl).symm⟩
  | wfrm => cases hb; exact hbody wfrmBody_raisesNoContract
  | adv => cases hb; exact hbody advBody_raisesNoContract
  | close => cases hb; exact hbody closeBody_raisesNoContract
  | frame => exact absurd rfl hframe
  | run => exact absurd rfl hrun
  | reserved => cases hb; exact hbody (raisesNoContract_go fun _ => rfl)
  | lit | clear | eoi | dict => cases hb
  | sig | lsd | gct | appext | gce | imgdesc | mincode | subblock | terminator | trailer => cases hb

/-- A program none of whose commands raises CONTRACT: between them the invariant holds. -/
theorem issue_noContract {program : List Instr}
    (hprogram : ∀ i ∈ program, ∃ body, commandBody i = some body ∧ NeverRaisesContract i) {s t : State}
    (hinv : Inv s) (hs : NoContract s) (h : issue program s = some t) : NoContract t := by
  induction program generalizing s with
  | nil => cases h; exact hs
  | cons i rest ih =>
    obtain ⟨⟨body, hb, hi⟩, hrest⟩ := List.forall_mem_cons.1 hprogram
    obtain ⟨u, hu⟩ := acceptCommand_is_next i body s
    have hexec : exec i s = .next u := (exec_command hb s).trans hu
    rw [issue_cons hexec] at h
    exact ih hrest (acceptCommand_inv hb hinv hu) (hi s u hinv hs hexec) h

/-- FRAME is the program of its three commands (O50). -/
theorem frame_neverRaisesContract : NeverRaisesContract .frame := by
  refine neverRaisesContract_of_legal (i := .frame) rfl fun s t hinv hr hl h => ?_
  obtain ⟨t', hframe, hissue⟩ := frameIsRastEncWfrm s hr (Option.some.inj hl).symm
  cases h.symm.trans hframe
  refine issue_noContract (fun i hi => ?_) hinv (noContract_of_settled (settled_of_inv hinv hr)) hissue
  simp only [List.mem_cons, List.not_mem_nil, or_false] at hi
  obtain rfl | rfl | rfl := hi <;> exact ⟨_, rfl, single_neverRaisesContract rfl nofun nofun⟩

/-- The commands of RUN's expansion (30_encoding R110). -/
theorem mem_runExpansion {frames : Nat} {i : Instr} (h : i ∈ runExpansion frames) :
    i = .frame ∨ i = .cfg ∨ i = .hdr ∨ i = .adv ∨ i = .close := by
  simp only [runExpansion, List.mem_append, List.mem_flatten, List.mem_replicate, List.mem_cons, List.not_mem_nil,
    or_false] at h
  obtain (h | ⟨_, ⟨_, rfl⟩, h⟩) | h := h
  · tauto
  · simp only [List.mem_cons, List.not_mem_nil, or_false] at h
    tauto
  · tauto

/-- RUN is the program of its expansion (O51). -/
theorem run_neverRaisesContract : NeverRaisesContract .run := by
  refine neverRaisesContract_of_legal (i := .run) rfl fun s t hinv hr hl h => ?_
  have hidle : s.state = .idle := (Option.some.inj hl).symm
  obtain ⟨t', hrun, hissue⟩ := runIsItsExpansion s hr hidle (hinv.idle_fidx hidle)
  cases h.symm.trans hrun
  refine issue_noContract (fun i hi => ?_) hinv (noContract_of_settled (settled_of_inv hinv hr)) hissue
  obtain rfl | hsingle := mem_runExpansion hi
  · exact ⟨_, rfl, frame_neverRaisesContract⟩
  · obtain rfl | rfl | rfl | rfl := hsingle <;> exact ⟨_, rfl, single_neverRaisesContract rfl nofun nofun⟩

theorem command_neverRaisesContract {i : Instr} {body : State → Flow} (hb : commandBody i = some body) :
    NeverRaisesContract i := by
  by_cases hframe : i = .frame
  · exact hframe ▸ frame_neverRaisesContract
  · by_cases hrun : i = .run
    · exact hrun ▸ run_neverRaisesContract
    · exact single_neverRaisesContract hb hframe hrun

/-- Settles O39: only ENC has a check that raises CONTRACT, and from its legal STATE neither check fails. -/
theorem contractIsUnreachable : Obligations.ContractIsUnreachable := by
  intro i s t hinv h hs
  rcases exec_forms i s with ⟨body, hb, _⟩ | ⟨_, op, _, _, he, _⟩ | ⟨_, he⟩ | ⟨bytes, _, he⟩
  · exact command_neverRaisesContract hb s t hinv hs h
  · rcases runCode_cases op s with ⟨_, hc⟩ | ⟨_, hc⟩ <;> cases (he.trans hc).symm.trans h <;> exact hs
  · cases he.symm.trans h
  · rcases runPut_cases bytes s with ⟨_, hp⟩ | ⟨_, hp⟩ <;> cases (he.trans hp).symm.trans h
    · exact hs
    · exact ends_iff_state.1 (putBytes_raisesNoContract bytes s hs)

end Sys2Proof.Proofs

/-! PROOFS of the obligations that come from 70_reset: what reset leaves (O6, O7), and the core that waits for an answer
that never comes (O17). -/

namespace Sys2Proof.Proofs

open Sys2Proof.Machine Sys2Proof.Laws

/-! ### Reset (R290, R291) -/

/-- Reset wins over everything, whatever the state is. -/
theorem step_of_reset {s : State} {o : OpenPlan} {k : SinkPlan} {script : List HostEvent}
    (h : s.env.script = .reset o k :: script) : step s = .next (s.afterReset o k script) := by
  simp [step, fetch, h]

/-- Settles O6: the registers are those of the reset state, in which with nothing presented nothing happens (O5). -/
theorem resetLeavesTheStatedValues : Obligations.ResetLeavesTheStatedValues := by
  intro s o k script h
  refine ⟨_, step_of_reset h, rfl, rfl, rfl, rfl, rfl, rfl, rfl, rfl, rfl, rfl, ?_⟩
  rintro rfl
  obtain ⟨hnothing, _⟩ := stepWithoutACommandToRun (s.afterReset o k []) fun _ _ _ => nofun
  exact hnothing rfl rfl rfl

/-- Settles O7: of the state before, reset keeps the parameters and the surroundings, and its own event is all it adds. -/
theorem resetWinsAndDoesNotRelease : Obligations.ResetWinsAndDoesNotRelease :=
  fun _ _ _ _ h => ⟨_, step_of_reset h, rfl, rfl, rfl, rfl⟩

/-! ### The translation and the advance, never answered (R294) -/

/-- The lines of RAST, the translation never answered. -/
theorem rastBody_translationUnanswered {s : State} (h : s.env.xlateAnswer s.fidx = none) :
    rastBody s = .halt ((s.log (.xlate s.fidx)).wait .translation) := by
  have hxlate : xlateFrame s = .halt ((s.log (.xlate s.fidx)).wait .translation) := by simpa [h] using xlateFrame_cases s
  rw [rastBody, hxlate, andThen_halt]

/-- The line of ADV, its request never answered. -/
theorem advBody_unanswered {s : State} (h : s.env.advanceAnswer = false) :
    advBody s = .halt ((s.log (.advance 1)).wait .advance) := by
  simpa [advBody, h] using advanceBy_cases 1 s

/-! ### A cell query of RAST, never answered (R294) -/

/-- SAMPLE of the next pixel, its query never answered: the query is the last thing seen. -/
theorem sample_afterPixels_unanswered {s : State} {k : Nat} (h : symbolAt s k = none) :
    sample (k % s.w.toNat) (k / s.w.toNat) (afterPixels s k) =
      (none, ({ afterPixels s (k + 1) with pix := BitVec.ofNat 32 k } : State).wait .cell) := by
  rcases sample_cases (k % s.w.toNat) (k / s.w.toNat) (afterPixels s k) with
    ⟨hkind, _⟩ | ⟨col, row, live, hkind, ha, _⟩ | ⟨col, row, hkind, _, hs⟩ <;> rw [pixelKind_afterPixels] at hkind
  · simp [symbolAt, pixelSymbol_of_gridline hkind] at h
  · rw [cellAnswer_afterPixels] at ha
    simp [symbolAt, pixelSymbol_of_inCell hkind, ha] at h
  · rw [hs]
    simp [afterPixels, pixelQueries_succ, hkind, State.log]

/-- The loops end at a pixel whose query is never answered: PIX stays at it, and the cells before it are written. -/
theorem rastLoop_unanswered {s : State} {k : Nat} (hk : k < 2 ^ 32) (h : symbolAt s k = none) (m : Nat)
    (done : List Symbol) :
    rastLoop (m + 1) done (afterPixels s k) =
      .halt (({ afterPixels s (k + 1) with
        pix := BitVec.ofNat 32 k, raster := rasterStore done s.raster } : State).wait .cell) := by
  have hpix : (afterPixels s k).pix.toNat = k := Nat.mod_eq_of_lt hk
  have hsample : sample (k % (afterPixels s k).w.toNat) (k / (afterPixels s k).w.toNat) (afterPixels s k) = _ :=
    sample_afterPixels_unanswered h
  rw [rastLoop, hpix, hsample]
  rfl

/-- The lines of RAST, the translation and the queries of these first pixels answered, the next query never. -/
theorem rastBody_cellUnanswered {s : State} {tx ty : BitVec 32} {symbols : List Symbol}
    (hxlate : s.env.xlateAnswer s.fidx = some (tx, ty)) (hlen : symbols.length < s.pixels)
    (h : AreFirstSymbols { s with tx := tx, ty := ty } symbols)
    (hnone : symbolAt { s with tx := tx, ty := ty } symbols.length = none) :
    rastBody s = .halt (({ s with
      tx := tx, ty := ty, pix := BitVec.ofNat 32 symbols.length, raster := symbols ++ s.raster.drop symbols.length,
      env := { s.env with
        trace := (pixelQueries { s with tx := tx, ty := ty } (symbols.length + 1)).reverse ++
          .xlate s.fidx :: s.env.trace } } : State).wait .cell) := by
  obtain ⟨m, hm⟩ : ∃ m, s.pixels = symbols.length + (m + 1) := Nat.exists_eq_add_of_lt hlen
  have hbound : symbols.length < 2 ^ 32 := hlen.trans (pixels_lt s)
  have hloop := (rastLoop_answered (s := translated s tx ty) (m + 1) hbound.le h).trans
    (rastLoop_unanswered (s := translated s tx ty) hbound hnone m symbols.reverse)
  rw [← hm, rasterStore_reverse] at hloop
  rw [rastBody, xlateFrame_answered hxlate, andThen_go]
  exact andThen_eq_halt.2 (.inl hloop)

/-! ### How an instruction ends with BUSY = 1 (R294) -/

/-- BUSY = 1 only while the core waits at a port, in the middle of a run. -/
def WaitsIfBusy (s : State) : Prop := s.busy = true → s.waiting.isSome = true ∧ s.state.terminal = false

/-- From a STATE that is no end of a run a stretch of pseudocode goes on in such a STATE; where it is over, it raised a
fault or waits. -/
def FaultsOrWaits (body : State → Flow) : Prop :=
  ∀ s : State, s.state.terminal = false → Ends (fun t => t.state.terminal = false) WaitsIfBusy (body s)

theorem waitsIfBusy_of_not_busy {s : State} (h : s.busy = false) : WaitsIfBusy s :=
  fun hb => nomatch h.symm.trans hb

theorem waitsIfBusy_raise (s : State) (cause : Cause) (info : BitVec 64) : WaitsIfBusy (s.raise cause info) :=
  waitsIfBusy_of_not_busy (raise_busy s cause info)

theorem waitsIfBusy_wait {s : State} (h : s.state.terminal = false) (port : Port) : WaitsIfBusy (s.wait port) :=
  fun _ => ⟨rfl, h⟩

theorem faultsOrWaits_andThen {f k : State → Flow} (hf : FaultsOrWaits f) (hk : FaultsOrWaits k) :
    FaultsOrWaits fun s => (f s).andThen k :=
  fun s hs => ends_andThen (hf s hs) hk

/-- The last line of a command sets a STATE that is not the end of the run. -/
theorem faultsOrWaits_go {f : State → State} {st : SeqState} (hst : st.terminal = false) (hf : ∀ s, (f s).state = st) :
    FaultsOrWaits fun s => .go (f s) :=
  fun s _ => (congrArg SeqState.terminal (hf s)).trans hst

theorem openSink_faultsOrWaits : FaultsOrWaits openSink := by
  intro s hs
  rcases openSink_cases s with ⟨_, h⟩ | ⟨_, h⟩ | ⟨_, h⟩ <;> rw [h]
  · exact hs
  · exact waitsIfBusy_raise _ _ _
  · exact waitsIfBusy_wait (s := s.log _) hs _

theorem putBytes_faultsOrWaits (bytes : List Byte) : FaultsOrWaits (putBytes bytes) := by
  intro s hs
  cases h : putBytes bytes s with
  | go t =>
    obtain ⟨_, rfl⟩ := putBytes_eq_go.1 h
    exact hs
  | halt t =>
    obtain ⟨k, b, _, _, ⟨_, rfl⟩ | ⟨_, rfl⟩⟩ := putBytes_eq_halt h
    · exact waitsIfBusy_raise _ _ _
    · exact waitsIfBusy_wait (s := (s.afterPuts (bytes.take k)).log _) hs _

theorem xlateFrame_faultsOrWaits : FaultsOrWaits xlateFrame := by
  intro s hs
  rcases xlateFrame_cases s with ⟨tx, ty, _, h⟩ | ⟨_, h⟩ <;> rw [h]
  · exact hs
  · exact waitsIfBusy_wait (s := s.log _) hs _

theorem advBody_faultsOrWaits : FaultsOrWaits advBody := by
  intro s hs
  rcases advanceBy_cases 1 s with ⟨_, h⟩ | ⟨_, h⟩ <;> rw [advBody, h]
  · exact hs
  · exact waitsIfBusy_wait (s := s.log _) hs _

theorem rastLoop_faultsOrWaits (n : Nat) (done : List Symbol) : FaultsOrWaits (rastLoop n done) := by
  intro s hs
  induction n generalizing done s with
  | zero => exact hs
  | succ n ih =>
    rw [rastLoop]
    rcases sample_cases (s.pix.toNat % s.w.toNat) (s.pix.toNat / s.w.toNat) s with
      ⟨_, h⟩ | ⟨col, row, live, _, _, h⟩ | ⟨col, row, _, _, h⟩ <;> rw [h]
    · exact ih _ _ hs
    · exact ih _ _ hs
    · exact waitsIfBusy_wait (s := { s.log _ with raster := _ }) hs _

theorem rastBody_faultsOrWaits : FaultsOrWaits rastBody :=
  faultsOrWaits_andThen xlateFrame_faultsOrWaits <|
    faultsOrWaits_andThen (fun s hs => rastLoop_faultsOrWaits s.pixels [] { s with pix := 0 } hs)
      (faultsOrWaits_go (st := .rastered) rfl fun _ => rfl)

theorem encBody_faultsOrWaits : FaultsOrWaits encBody := by
  refine faultsOrWaits_andThen (fun s hs => ?_) fun s hs => ?_
  · rcases encLoop_cases (rasterCells s.pixels 0 s.raster) { s with lzw := lzwInit s.lzw, pix := 0 } with
      ⟨l, n, h⟩ | ⟨l, n, h⟩ <;> rw [h]
    · exact hs
    · exact waitsIfBusy_raise _ _ _
  · unfold encFinish
    cases lzwFin s.lzw with
    | none => exact waitsIfBusy_raise _ _ _
    | some l => exact Eq.refl false

theorem hdrBody_faultsOrWaits : FaultsOrWaits hdrBody :=
  faultsOrWaits_andThen openSink_faultsOrWaits <|
    faultsOrWaits_andThen (fun s => putBytes_faultsOrWaits (headerBytes s.params s.w s.h) s)
      (faultsOrWaits_go (st := .isOpen) rfl fun _ => rfl)

theorem wfrmBody_faultsOrWaits : FaultsOrWaits wfrmBody :=
  faultsOrWaits_andThen (fun s => putBytes_faultsOrWaits (frameBytes s.pause s.w s.h s.lzwb) s)
    (faultsOrWaits_go (st := .isOpen) rfl fun _ => rfl)

theorem cfgBody_faultsOrWaits : FaultsOrWaits cfgBody := by
  intro s _
  obtain ⟨cause, info, h⟩ | ⟨_, h⟩ := cfgBody_raise_or_go s <;> rw [h]
  · exact waitsIfBusy_raise _ _ _
  · exact Eq.refl false

theorem frameBody_faultsOrWaits : FaultsOrWaits frameBody :=
  faultsOrWaits_andThen (faultsOrWaits_andThen rastBody_faultsOrWaits encBody_faultsOrWaits) wfrmBody_faultsOrWaits

theorem runLoop_faultsOrWaits (fuel : Nat) : FaultsOrWaits (runLoop fuel) := by
  induction fuel with
  | zero => exact fun _ hs => hs
  | succ fuel ih =>
    intro s hs
    unfold runLoop
    split
    · refine faultsOrWaits_andThen (faultsOrWaits_andThen frameBody_faultsOrWaits fun t ht => ?_) ih s hs
      split
      · exact advBody_faultsOrWaits t ht
      · exact ht
    · exact hs

/-- CLOSE ends the run with its last line, and it can wait only before that line. -/
theorem closeBody_waitsIfBusy {s : State} (hs : s.state.terminal = false) :
    Ends (fun _ => True) WaitsIfBusy (closeBody s) :=
  ends_andThen (putBytes_faultsOrWaits trailerBytes s hs) fun _ _ => trivial

/-- Where the body of a command is over early. -/
theorem commandBody_waitsIfBusy {i : Instr} {body : State → Flow} (h : commandBody i = some body) {s : State}
    (hs : s.state.terminal = false) : Ends (fun _ => True) WaitsIfBusy (body s) := by
  have hbody (hb : FaultsOrWaits body) : Ends (fun _ => True) WaitsIfBusy (body s) :=
    ends_mono (hb s hs) (fun _ _ => trivial) fun _ => id
  cases i with
  | cfg => cases h; exact hbody cfgBody_faultsOrWaits
  | hdr => cases h; exact hbody hdrBody_faultsOrWaits
  | rast => cases h; exact hbody rastBody_faultsOrWaits
  | enc => cases h; exact hbody encBody_faultsOrWaits
  | wfrm => cases h; exact hbody wfrmBody_faultsOrWaits
  | adv => cases h; exact hbody advBody_faultsOrWaits
  | close => cases h; exact closeBody_waitsIfBusy hs
  | frame => cases h; exact hbody frameBody_faultsOrWaits
  | run =>
    cases h
    exact ends_andThen
      (faultsOrWaits_andThen (faultsOrWaits_andThen cfgBody_faultsOrWaits hdrBody_faultsOrWaits)
        (fun t => runLoop_faultsOrWaits (t.frames.toNat - t.fidx.toNat) t) s hs)
      fun _ => closeBody_waitsIfBusy
  | reserved => cases h; trivial
  | lit | clear | eoi | dict => cases h
  | sig | lsd | gct | appext | gce | imgdesc | mincode | subblock | terminator | trailer => cases h

/-- A record run by itself before the end of a run: only a byte never answered leaves BUSY = 1. -/
theorem runPut_waitsIfBusy {bytes : List Byte} {s t : State} (hb : s.busy = false) (hs : s.state.terminal = false)
    (h : runPut bytes s = .next t) : WaitsIfBusy t := by
  rcases runPut_cases bytes s with ⟨_, hp⟩ | ⟨_, hp⟩ <;> cases hp.symm.trans h
  · exact waitsIfBusy_of_not_busy hb
  · have hends := putBytes_faultsOrWaits bytes s hs
    cases hput : putBytes bytes s with
    | go u =>
      obtain ⟨_, rfl⟩ := putBytes_eq_go.1 hput
      exact waitsIfBusy_of_not_busy hb
    | halt u => rwa [hput] at hends

/-- However an instruction ends: at the end of a run it changes nothing, before it BUSY = 1 means that it waits. -/
theorem exec_waitsIfBusy {i : Instr} {s t : State} (hb : s.busy = false) (h : exec i s = .next t) : WaitsIfBusy t := by
  have hsame : WaitsIfBusy s := waitsIfBusy_of_not_busy hb
  cases hs : s.state.terminal with
  | true => rwa [exec_terminal hs h]
  | false =>
    rcases exec_forms i s with ⟨body, hbody, he⟩ | ⟨_, op, _, _, he, _⟩ | ⟨_, he⟩ | ⟨bytes, _, he⟩ <;> rw [he] at h
    · refine acceptCommand_ends hsame (fun _ => waitsIfBusy_raise s) (fun _ => ?_) h
      exact ends_mono (commandBody_waitsIfBusy (s := { s with busy := true }) hbody hs)
        (fun _ _ => waitsIfBusy_of_not_busy rfl) fun _ => id
    · rcases runCode_cases op s with ⟨_, hc⟩ | ⟨_, hc⟩ <;> cases hc.symm.trans h <;> exact waitsIfBusy_of_not_busy hb
    · cases h
    · exact runPut_waitsIfBusy hb hs h

/-- Settles O17: the body of RAST or ADV is over at the request, and an instruction that ends with BUSY = 1 waits, so that
by O5 the core has no step. -/
theorem unansweredRequestLeavesTheCoreWaiting : Obligations.UnansweredRequestLeavesTheCoreWaiting := by
  refine ⟨fun s hr hs hx => ?_, fun s tx ty k hr hs hx hk => ?_, fun s hr hs ha => ?_,
    fun i s t h hb ht => ?_⟩
  · exact exec_legal_halt (i := .rast) rfl hr (by rw [hs]; rfl)
      (rastBody_translationUnanswered (s := { s with busy := true }) hx)
  · intro s1 hsome hnone
    obtain ⟨symbols, rfl, hsymbols⟩ := exists_areFirstSymbols (s := s1) hsome
    have hhalt := rastBody_cellUnanswered (s := { s with busy := true }) hx hk hsymbols hnone
    refine ⟨_, exec_legal_halt (i := .rast) rfl hr (by rw [hs]; rfl) hhalt, rfl, fun i hi => ?_, fun i hi => ?_⟩
    · show (symbols ++ s.raster.drop symbols.length)[i]? = _
      rw [List.getElem?_append_left hi, areFirstSymbols_getElem? hsymbols hi]
      rfl
    · show (symbols ++ s.raster.drop symbols.length)[i]? = _
      rw [List.getElem?_append_right hi, List.getElem?_drop, Nat.add_sub_cancel' hi]
  · exact exec_legal_halt (i := .adv) rfl hr (by rw [hs]; rfl) (advBody_unanswered (s := { s with busy := true }) ha)
  · obtain ⟨hwaiting, hlive⟩ := exec_waitsIfBusy hb h ht
    obtain ⟨hfault, hclosed⟩ := ne_of_not_terminal hlive
    refine ⟨hwaiting, hclosed, hfault, fun hreset => ?_⟩
    obtain ⟨_, _, hstuck⟩ := stepWithoutACommandToRun t hreset
    exact hstuck ht

end Sys2Proof.Proofs

/-! PROOFS that decoder and encoder of 30_encoding are inverse to each other: every well-formed instruction is decoded from
its words (O1), and words that decode are the words of a well-formed instruction (O2). -/

namespace Sys2Proof.Proofs

open Sys2Proof.Machine Sys2Proof.Laws

/-! ### Decoding the words of an instruction -/

/-- The reserved bytes (30_encoding R93) as numbers: 00, and everything from 0A on. -/
theorem wellFormed_reserved_iff {r p : BitVec 4} :
    (Instr.reserved r p).wellFormed = true ↔ (r ++ p).toNat = 0 ∨ 10 ≤ (r ++ p).toNat := by
  have hr : r = 0 ↔ r.toNat = 0 := BitVec.toNat_inj.symm
  have hp : p = 0 ↔ p.toNat = 0 := BitVec.toNat_inj.symm
  simp only [Instr.wellFormed, Bool.or_eq_true, bne_iff_ne, ne_eq, beq_iff_eq, decide_eq_true_eq, toNat_append_eq, hr, hp]
  omega

theorem decodeCommand_halves {r p : BitVec 4} (h : (Instr.reserved r p).wellFormed = true) :
    decodeCommand (r ++ p) = .reserved r p := by
  rw [decodeCommand_reserved (wellFormed_reserved_iff.1 h), BitVec.extractLsb'_append_eq_left,
    BitVec.extractLsb'_append_eq_right]

theorem decodeCode_litCode (sym : Symbol) : decodeCode (litCode sym) = .lit sym := by
  revert sym
  decide

theorem decodeCode_of_six_le {c : Code} (h : 6 ≤ c.toNat) : decodeCode c = .dict c := by
  have h4 : c ≠ 4 := by
    rintro rfl
    exact absurd h (by decide)
  have h5 : c ≠ 5 := by
    rintro rfl
    exact absurd h (by decide)
  rw [decodeCode, if_neg (by omega), if_neg h4, if_neg h5]

/-- LE16 (00_scope R7) read back. -/
@[simp] theorem word16_extractLsb' (v : BitVec 16) : word16 (v.extractLsb' 0 8) (v.extractLsb' 8 8) = v :=
  (BitVec.extractLsb'_append_extractLsb'_eq_extractLsb' rfl).trans BitVec.extractLsb'_eq_self

/-- CRES stands in bits 6:4 of the screen descriptor's flags byte (30_encoding R100). -/
@[simp] theorem extractLsb'_lsdFlags (cres : BitVec 3) : (lsdFlags cres).extractLsb' 4 3 = cres := by
  revert cres
  decide

/-- A record with operands has a length of its own (30_encoding R109), and its fields read the operands back. -/
theorem decodeRecord_of_encode {i : Instr} {bytes : List Byte} (h : encode i = .record bytes) :
    decodeRecord bytes = .ok i := by
  cases i with
  | cfg | hdr | rast | enc | wfrm | adv | close | frame | run | reserved => cases h
  | lit | clear | eoi | dict => cases h
  | subblock | terminator => cases h
  | sig | appext | mincode | trailer => cases h; rfl
  | lsd | gct | gce | imgdesc =>
    cases h
    simp [decodeRecord, sigBytes, appextBytes, mincodeBytes, trailerBytes, lsdBytes, gctBytes, gceBytes, imgdescBytes, le16]

theorem wellFormed_subblock_iff {n : Byte} {data : List Byte} :
    (Instr.subblock n data).wellFormed = true ↔ n ≠ 0 ∧ data.length = n.toNat := by
  have hn : n ≠ 0 ↔ 1 ≤ n.toNat := BitVec.toNat_ne.trans Nat.one_le_iff_ne_zero.symm
  simp only [Instr.wellFormed, Bool.and_eq_true, decide_eq_true_eq, beq_iff_eq, hn]

theorem decodeBlock_cons {n : Byte} {data : List Byte} (h : (Instr.subblock n data).wellFormed = true) :
    decodeBlock (n :: data) = .ok (.subblock n data) := by
  obtain ⟨hn, hlen⟩ := wellFormed_subblock_iff.1 h
  rw [decodeBlock, if_neg hn, if_pos hlen]

/-- Settles O1: the rows without operands are decoded by evaluation, the others by the decoder of their space. -/
theorem encodeThenDecodeGivesTheInstruction : Obligations.EncodeThenDecodeGivesTheInstruction := by
  intro i hwf
  cases i with
  | cfg | hdr | rast | enc | wfrm | adv | close | frame | run => rfl
  | reserved r p => exact congrArg Decoded.ok (decodeCommand_halves hwf)
  | clear | eoi => rfl
  | lit sym => exact congrArg Decoded.ok (decodeCode_litCode sym)
  | dict c => exact congrArg Decoded.ok (decodeCode_of_six_le (of_decide_eq_true hwf))
  | sig | lsd | gct | appext | gce | imgdesc | mincode | trailer => exact decodeRecord_of_encode rfl
  | subblock n data => exact decodeBlock_cons hwf
  | terminator => rfl

/-! ### The words that decode -/

/-- If this answer names an instruction, it is a well-formed one, and these are its words. -/
def AnswersFor (e : Encoded) (d : Decoded) : Prop := ∀ i, d = .ok i → encode i = e ∧ i.wellFormed = true

theorem answersFor_bad {e : Encoded} {r : DecodeError} : AnswersFor e (.bad r) := nofun

theorem answersFor_ok {e : Encoded} {i : Instr} (h : encode i = e) (hwf : i.wellFormed = true) : AnswersFor e (.ok i) := by
  rintro _ ⟨⟩
  exact ⟨h, hwf⟩

/-- The decoder compares a record with the bytes of a row, and answers the row if they are the same. -/
theorem answersFor_ite {bytes layout : List Byte} {i : Instr} {d : Decoded} (h : encode i = .record layout)
    (hwf : i.wellFormed = true) (hd : AnswersFor (.record bytes) d) :
    AnswersFor (.record bytes) (if bytes = layout then .ok i else d) := by
  split
  next heq => exact answersFor_ok (heq ▸ h) hwf
  next => exact hd

theorem answersFor_decodeCommand (b : Byte) : AnswersFor (.command b) (.ok (decodeCommand b)) := by
  by_cases hb : b.toNat = 0 ∨ 10 ≤ b.toNat
  · rw [decodeCommand_reserved hb]
    exact answersFor_ok (congrArg Encoded.command (halves_append b))
      (wellFormed_reserved_iff.2 (by rwa [halves_append]))
  · have htable : ∀ n < 10, n ≠ 0 → encode (decodeCommand (BitVec.ofNat 8 n)) = .command (BitVec.ofNat 8 n) ∧
        (decodeCommand (BitVec.ofNat 8 n)).wellFormed = true := by decide
    obtain ⟨hencode, hwf⟩ := htable b.toNat (by omega) (by omega)
    rw [BitVec.ofNat_toNat, BitVec.setWidth_eq] at hencode hwf
    exact answersFor_ok hencode hwf

/-- A code below 4 is its own low two bits (30_encoding R94). -/
theorem litCode_extractLsb' {c : Code} (h : c.toNat < 4) : litCode (c.extractLsb' 0 2) = c := by
  apply BitVec.eq_of_toNat_eq
  simp [litCode]
  omega

theorem answersFor_decodeCode (c : Code) : AnswersFor (.code c) (.ok (decodeCode c)) := by
  unfold decodeCode
  split
  next hlit => exact answersFor_ok (congrArg Encoded.code (litCode_extractLsb' hlit)) rfl
  next hlit =>
    split
    next h4 => exact answersFor_ok (congrArg Encoded.code h4.symm) rfl
    next h4 =>
      split
      next h5 => exact answersFor_ok (congrArg Encoded.code h5.symm) rfl
      next h5 =>
        have h4 : c.toNat ≠ 4 := BitVec.toNat_ne.1 h4
        have h5 : c.toNat ≠ 5 := BitVec.toNat_ne.1 h5
        exact answersFor_ok rfl (decide_eq_true (by omega : 6 ≤ c.toNat))

/-- The records without operands are compared first, then by its length the one record with operands. -/
theorem answersFor_decodeRecord (bytes : List Byte) : AnswersFor (.record bytes) (decodeRecord bytes) := by
  unfold decodeRecord
  iterate 4 refine answersFor_ite rfl rfl ?_
  split
  iterate 4 exact answersFor_ite rfl rfl answersFor_bad
  exact answersFor_bad

theorem answersFor_decodeBlock (bytes : List Byte) : AnswersFor (.block bytes) (decodeBlock bytes) := by
  cases bytes with
  | nil => exact answersFor_bad
  | cons n data =>
    rw [decodeBlock]
    split
    next hn =>
      split
      next hdata => exact answersFor_ok (by rw [hn, hdata]; rfl) rfl
      next => exact answersFor_bad
    next hn =>
      split
      next hlen => exact answersFor_ok rfl (wellFormed_subblock_iff.2 ⟨hn, hlen⟩)
      next => exact answersFor_bad

/-- Settles O2: the decoder of each of the four kinds of words answers for the words it was given. -/
theorem decodedWordsEncodeBack : Obligations.DecodedWordsEncodeBack := by
  intro e
  cases e with
  | command b => exact answersFor_decodeCommand b
  | code c => exact answersFor_decodeCode c
  | record bytes => exact answersFor_decodeRecord bytes
  | block bytes => exact answersFor_decodeBlock bytes

end Sys2Proof.Proofs

/-! PROOFS of what a step runs (O4), and that the invariant of the reachable states holds at reset (O9). -/

namespace Sys2Proof.Proofs

open Sys2Proof.Machine Sys2Proof.Laws

/-- Settles O4: the hypotheses leave one of the ways a step can go, the presented byte's or the slot's. -/
theorem stepRunsTheDecodedInstruction : Obligations.StepRunsTheDecodedInstruction := by
  refine ⟨fun s b pins script hr hslot hscript => ?_, fun s e i hr hreset hslot hdecode => ?_⟩
  · obtain ⟨hbusy, hlive⟩ := cmdReady_iff.1 hr
    have hstep : step s = exec (decodeCommand b) (s.afterAccept pins script) := by
      simpa [hr, hbusy, hlive, hslot, hscript] using step_cases s
    exact hstep
  · obtain ⟨hbusy, hlive⟩ := cmdReady_iff.1 hr
    obtain ⟨_, hstep⟩ := (step_cases s).resolve_left fun ⟨o, k, script, h, _⟩ => hreset o k script h
    simpa [hr, hbusy, hlive, hslot, hdecode] using hstep

/-- Settles O9: a reset with nothing presented after it establishes the invariant, which says nothing of the surroundings. -/
theorem reachableInvariantHoldsAtReset : Obligations.ReachableInvariantHoldsAtReset :=
  inv_env (inv_afterReset State.reset .free .free [])

end Sys2Proof.Proofs
